-- ==== Sys2Proof/Word.lean ====
section
/-! DEFINITION. The widths of spec/00_scope.md R4 as type names. Every value is unsigned (R6). -/

namespace Sys2Proof

/-- One register word, `REG_W = 32` (R4). -/
abbrev Word := BitVec 32

/-- A prescaler, reload, compare or counter value: `PSC_W = ARR_W = CCR_W = CNT_W = 16` (R4). -/
abbrev Half := BitVec 16

/-- A frequency in Hz, `HZ_W = 32` (R4). -/
abbrev Hz := BitVec 32

/-- A command word, `CMD_W = 40` (R4, R90). -/
abbrev CommandWord := BitVec 40

/-- A response word, `RESP_W = 20` (R4, R96). -/
abbrev ResponseWord := BitVec 20

/-- A pin identifier, `PIN_W = 8` (R4). -/
abbrev PinId := BitVec 8

/-- An alternate-function selector, `AF_W = 4` (R4, R191). -/
abbrev AfSel := BitVec 4

/-- An output-compare mode field `OCnM`, 3 bits (R25, R97). -/
abbrev OcMode := BitVec 3

/-- A status code, 4 bits (R96). -/
abbrev StatusCode := BitVec 4

end Sys2Proof
end

