-- ==== Sys2Proof/Config.lean ====
section
/-! DEFINITION. The channels (R12), the open parameters of the block (R4, R36) and the one value the spec
leaves unspecified (R215). Nothing here has a value that a proof could lean on. -/

namespace Sys2Proof

/-- "A channel is one of 1, 2, 3, 4" (R12; `N_CH = 4`, R4). -/
inductive Channel where
  | c1 | c2 | c3 | c4
  deriving DecidableEq, Repr

/-- One row of the pin binding table: `BIND(pin, ch) = sel` (R4, R191). -/
structure BindRow where
  pin : PinId
  ch  : Channel
  sel : AfSel
  deriving DecidableEq, Repr

/-- The open parameters `CLK_HZ`, `BIND` and `BASE` (R4, R36). `BASE` is word-aligned (R64), so it is kept as
`BASE / 4`: a misaligned base cannot be written down (log 10). -/
structure Params where
  clkHz    : Hz
  bind     : List BindRow
  baseWord : Nat
  deriving DecidableEq, Repr

/-- `BASE`, always a multiple of 4 (R64). DESIGN CHOICE (log 34): the spec gives `BASE` and a byte address no width
(R60), so both are unbounded and `BASE` plus an offset never wraps. -/
def Params.base (p : Params) : Nat := 4 * p.baseWord

/-- The timer's input clock as the clock tree reports it (R4, OPEN): no value is known (log 9). -/
opaque Config.clkHz : Hz

/-- The pin binding table of this instance on this silicon variant (R4, OPEN): no row is known (log 9). -/
opaque Config.bind : List BindRow

/-- `BASE / 4` of this instance (R4, OPEN): no value is known (log 9). -/
opaque Config.baseWord : Nat

/-- FREE VALUE (R215, "`OC[ch]` unspecified"; spec/93 U4 "any value"): the level of channel number `ch` while its
enable bit is set and its mode is not PWM mode 1. It may depend on everything the state `s` holds; nothing
constrains it (log 16). -/
opaque Config.anyLevel (σ : Type) (s : σ) (ch : Channel) : Bool

end Sys2Proof
end

