-- ==== Sys2Proof/Syntax.lean ====
section
/-! DEFINITION. The seven commands (R92), one constructor per row of spec/opcode_table.json. -/

namespace Sys2Proof

/-- A command with its operands at the widths of R93, so that an operand out of its legal range cannot be
written down. -/
inductive Instr where
  /-- `INIT freq` (R120). -/
  | init (freq : Hz)
  /-- `ASSIGN c<n>, pin` (R190). -/
  | assign (ch : Channel) (pin : PinId)
  /-- `ENABLE c<n>` (R152). -/
  | enable (ch : Channel)
  /-- `DISABLE c<n>` (R154). -/
  | disable (ch : Channel)
  /-- `GET_DUTY c<n>` (R155). -/
  | getDuty (ch : Channel)
  /-- `SET_DUTY c<n>, value` (R156). -/
  | setDuty (ch : Channel) (value : Half)
  /-- `GET_MAX_DUTY c<n>` (R158). -/
  | getMaxDuty (ch : Channel)
  deriving DecidableEq, Repr

end Sys2Proof
end

