-- ==== Sys2Proof/WellFormed.lean ====
section
/-! DEFINITION. What may be given to the block from outside: a command written with numbers (the text form of
R98) is checked against the legal ranges of R93, and a configuration against R64 and R191. -/

namespace Sys2Proof

/-- A command as the text form of R98 writes it: operands are numbers, not yet known to be in range. -/
inductive SourceCommand where
  | init (freq : Nat)
  | assign (ch pin : Nat)
  | enable (ch : Nat)
  | disable (ch : Nat)
  | getDuty (ch : Nat)
  | setDuty (ch value : Nat)
  | getMaxDuty (ch : Nat)
  deriving DecidableEq, Repr

/-- "`n`: 1 to 4" (R98, R91). -/
def channelInRange (n : Nat) : Bool := decide (1 ≤ n ∧ n ≤ 4)

/-- The legal ranges of R93. -/
def SourceCommand.wellFormed : SourceCommand → Bool
  | .init freq       => decide (freq < 2 ^ 32)
  | .assign ch pin   => channelInRange ch && decide (pin < 2 ^ 8)
  | .enable ch       => channelInRange ch
  | .disable ch      => channelInRange ch
  | .getDuty ch      => channelInRange ch
  | .setDuty ch v    => channelInRange ch && decide (v < 2 ^ 16)
  | .getMaxDuty ch   => channelInRange ch

/-- "At most one alternate-function selector exists per (pin, timer, channel) triple" (R191). -/
def bindWellFormed (rows : List BindRow) : Bool :=
  decide (rows.Pairwise fun a b => ¬ (a.pin = b.pin ∧ a.ch = b.ch))

/-- "A model rejects a configuration whose `BASE` is not a multiple of 4" (R64); a binding table that gives one
pair two selectors is no partial function (R191). -/
def Params.make? (clkHz : Hz) (rows : List BindRow) (base : Nat) : Option Params :=
  if base % 4 = 0 ∧ bindWellFormed rows = true then some ⟨clkHz, rows, base / 4⟩ else none

end Sys2Proof
end

