-- ==== Sys2Proof/Decode.lean ====
section
/-! DEFINITION. Command words: fields (R90), opcode map (R92), operand assembly (R93), total decoding (R95), the
named ways a word can be illegal (R94), and the encoder written from the same tables. -/

namespace Sys2Proof

/-- Channel number 1 to 4 (R12). -/
def Channel.num : Channel → Nat
  | .c1 => 1 | .c2 => 2 | .c3 => 3 | .c4 => 4

/-- The channel of a number, if it is one (R12). -/
def Channel.ofNum? : Nat → Option Channel
  | 1 => some .c1 | 2 => some .c2 | 3 => some .c3 | 4 => some .c4 | _ => none

/-- The field `CH` holds the channel number minus 1 (R91). -/
def Channel.field : Channel → BitVec 2
  | .c1 => 0b00#2 | .c2 => 0b01#2 | .c3 => 0b10#2 | .c4 => 0b11#2

/-- "So `ch = CH + 1`" (R91). -/
def Channel.ofField (v : BitVec 2) : Channel :=
  if v = 0b00#2 then .c1 else if v = 0b01#2 then .c2 else if v = 0b10#2 then .c3 else .c4

/-- `OP`, bits 39:36 (R90). -/
def opField (cw : CommandWord) : BitVec 4 := cw.extractLsb' 36 4

/-- `CH`, bits 35:34 (R90). -/
def chField (cw : CommandWord) : BitVec 2 := cw.extractLsb' 34 2

/-- `RSV`, bits 33:32 (R90). -/
def rsvField (cw : CommandWord) : BitVec 2 := cw.extractLsb' 32 2

/-- `IMM`, bits 31:0 (R90). -/
def immField (cw : CommandWord) : BitVec 32 := cw.extractLsb' 0 32

/-- The rows of the opcode map (R92), by name. -/
inductive Op where
  | init | assign | enable | disable | getDuty | setDuty | getMaxDuty
  deriving DecidableEq, Repr

/-- A row of R92: "a word `CW` is the command of a row exactly when `CW & mask = match`". -/
structure OpRow where
  op   : Op
  mask : CommandWord
  pat  : CommandWord
  deriving DecidableEq, Repr

/-- The opcode map of R92, in its order. -/
def opcodeMap : List OpRow :=
  [ ⟨.init,       0xFF00000000#40, 0x1000000000#40⟩,
    ⟨.assign,     0xF3FFFFFF00#40, 0x2000000000#40⟩,
    ⟨.enable,     0xF3FFFFFFFF#40, 0x3000000000#40⟩,
    ⟨.disable,    0xF3FFFFFFFF#40, 0x4000000000#40⟩,
    ⟨.getDuty,    0xF3FFFFFFFF#40, 0x5000000000#40⟩,
    ⟨.setDuty,    0xF3FFFF0000#40, 0x6000000000#40⟩,
    ⟨.getMaxDuty, 0xF3FFFFFFFF#40, 0x7000000000#40⟩ ]

/-- The word matches the row (R92). -/
def OpRow.hits (r : OpRow) (cw : CommandWord) : Bool := cw &&& r.mask == r.pat

/-- The channel a word selects (R91). -/
def chOf (cw : CommandWord) : Channel := Channel.ofField (chField cw)

/-- Operand assembly (R93): nothing is sign-extended, scaled or shifted. -/
def assemble : Op → CommandWord → Instr
  | .init,       cw => .init (immField cw)
  | .assign,     cw => .assign (chOf cw) ((immField cw).extractLsb' 0 8)
  | .enable,     cw => .enable (chOf cw)
  | .disable,    cw => .disable (chOf cw)
  | .getDuty,    cw => .getDuty (chOf cw)
  | .setDuty,    cw => .setDuty (chOf cw) ((immField cw).extractLsb' 0 16)
  | .getMaxDuty, cw => .getMaxDuty (chOf cw)

/-- Why a word is illegal, in the words of R94. -/
inductive Illegal where
  /-- `OP = 0x0` or `OP = 0x8` to `0xF`. -/
  | reservedOpcode
  /-- `RSV ≠ 0b00`. -/
  | reservedBits
  /-- `CH ≠ 0b00` in `INIT`. -/
  | channelInInit
  /-- `IMM[31:8] ≠ 0` in `ASSIGN`. -/
  | pinTooWide
  /-- `IMM[31:16] ≠ 0` in `SET_DUTY`. -/
  | dutyTooWide
  /-- `IMM ≠ 0` in `ENABLE`, `DISABLE`, `GET_DUTY`, `GET_MAX_DUTY`. -/
  | immediateNotZero
  deriving DecidableEq, Repr

/-- The name of the reason a word that matches no row is illegal (R94). -/
def whyIllegal (cw : CommandWord) : Illegal :=
  if opField cw = 0#4 ∨ 8#4 ≤ opField cw then .reservedOpcode
  else if rsvField cw ≠ 0#2 then .reservedBits
  else if opField cw = 1#4 then .channelInInit
  else if opField cw = 2#4 then .pinTooWide
  else if opField cw = 6#4 then .dutyTooWide
  else .immediateNotZero

/-- Total decoding: the first row that matches, else illegal (R95). -/
def decode (cw : CommandWord) : Except Illegal Instr :=
  match opcodeMap.find? (fun r => r.hits cw) with
  | some r => .ok (assemble r.op cw)
  | none   => .error (whyIllegal cw)

/-- A command word from its fields, `RSV = 0b00` (R90). -/
def layout (op : BitVec 4) (ch : BitVec 2) (imm : BitVec 32) : CommandWord := op ++ ch ++ 0b00#2 ++ imm

/-- The word of a command, from the patterns of R92 and the operand fields of R93. -/
def encode : Instr → CommandWord
  | .init freq        => layout 0x1#4 0b00#2 freq
  | .assign ch pin    => layout 0x2#4 ch.field (pin.setWidth 32)
  | .enable ch        => layout 0x3#4 ch.field 0#32
  | .disable ch       => layout 0x4#4 ch.field 0#32
  | .getDuty ch       => layout 0x5#4 ch.field 0#32
  | .setDuty ch value => layout 0x6#4 ch.field (value.setWidth 32)
  | .getMaxDuty ch    => layout 0x7#4 ch.field 0#32

/-- What the decoder reads from a table word: a command is one whole 40-bit word (R90, R101), so a longer word
whose higher bits are not all zero is none (log 25). -/
def decodeTableWord (nbits w : Nat) : Option Instr :=
  if w % 2 ^ nbits < 2 ^ 40 then
    match decode (BitVec.ofNat 40 (w % 2 ^ nbits)) with
    | .ok i    => some i
    | .error _ => none
  else none

/-- The numbers of a command's operands (R98). -/
def SourceCommand.ofInstr : Instr → SourceCommand
  | .init freq        => .init freq.toNat
  | .assign ch pin    => .assign ch.num pin.toNat
  | .enable ch        => .enable ch.num
  | .disable ch       => .disable ch.num
  | .getDuty ch       => .getDuty ch.num
  | .setDuty ch value => .setDuty ch.num value.toNat
  | .getMaxDuty ch    => .getMaxDuty ch.num

/-- A command is well formed when its operands are in the ranges of R93: every command of `Instr` is. -/
def Instr.wellFormed (i : Instr) : Bool := (SourceCommand.ofInstr i).wellFormed

/-- The command a source command stands for; one out of range stands for none (R93). -/
def SourceCommand.toInstr? (c : SourceCommand) : Option Instr :=
  if c.wellFormed then
    match c with
    | .init freq     => some (.init (BitVec.ofNat 32 freq))
    | .assign ch pin => (Channel.ofNum? ch).map fun k => .assign k (BitVec.ofNat 8 pin)
    | .enable ch     => (Channel.ofNum? ch).map .enable
    | .disable ch    => (Channel.ofNum? ch).map .disable
    | .getDuty ch    => (Channel.ofNum? ch).map .getDuty
    | .setDuty ch v  => (Channel.ofNum? ch).map fun k => .setDuty k (BitVec.ofNat 16 v)
    | .getMaxDuty ch => (Channel.ofNum? ch).map .getMaxDuty
  else none

end Sys2Proof
end

