-- ==== Sys2Proof/Machine/State.lean ====
section
/-! DEFINITION. The state of one timer instance (R20), as plain data, and its value after hardware reset (R35). -/

namespace Sys2Proof.Machine

/-- One value per channel. -/
structure ByChannel (α : Type) where
  c1 : α
  c2 : α
  c3 : α
  c4 : α
  deriving DecidableEq, Repr

/-- The channel state (R30). -/
inductive ChState where
  /-- "carries no pin; duty control is not reachable from this state". -/
  | unassigned
  /-- "exclusively owns the pin value". -/
  | assigned (pin : PinId)
  deriving DecidableEq, Repr

/-- What waits at an input port of the block (D1, R70, R280). -/
inductive Input where
  /-- A command word from some requester (R70, R101). -/
  | command (cw : CommandWord)
  /-- One cycle of the timer's input clock (R210). -/
  | tick
  /-- Hardware reset (R280). -/
  | hardwareReset
  /-- The core sets or clears its interrupt mask between commands (R31, R34 (g)). -/
  | setIrqMask (b : Bool)
  deriving DecidableEq, Repr

/-- What leaves the block: the response word (R96) and the collaborator events (R251). -/
inductive Output where
  | response (w : ResponseWord)
  /-- `CLK_ENABLE()` to the clock tree (R121). -/
  | clkEnable
  /-- `PERIPH_RESET_PULSE()` to the clock tree (R121). -/
  | periphResetPulse
  /-- `AF_SELECT(pin, sel)` to the pin collaborator (R194). -/
  | afSelect (pin : PinId) (sel : AfSel)
  deriving DecidableEq, Repr

/-- The state of the block. The first group is the configuration (R36), the last group is the model's own record
of its ports; everything between is R20's list. -/
structure State where
  /-- `CLK_HZ`, `BIND`, `BASE`: parameters of the step, never written (R36; log 9). -/
  cfg : Params
  /-- Prescaler `PSC` (R21). -/
  psc : Half
  /-- Reload `ARR` (R21). -/
  arr : Half
  /-- Duty registers `CCR1` to `CCR4`, the preload values (R21, R28). -/
  ccr : ByChannel Half
  /-- `CR1.CEN` (R24). -/
  cen : Bool
  /-- `OCnPE` of `CCMR1`, `CCMR2` (R25). -/
  ocpe : ByChannel Bool
  /-- `OCnM` of `CCMR1`, `CCMR2` (R25). -/
  ocm : ByChannel OcMode
  /-- `CCnE` of `CCER` (R26). -/
  cce : ByChannel Bool
  /-- The counter `CNT` (R27). -/
  cnt : Half
  /-- The prescaler counter `PSCCNT` (R27). -/
  psccnt : Half
  /-- The active compare values `CCRA[1..4]` (R28). -/
  ccra : ByChannel Half
  /-- The clock gate `CLKEN` (R29). -/
  clken : Bool
  /-- `INITIALIZED` (R29). -/
  initialized : Bool
  /-- `CHSTATE[1..4]` (R30). -/
  chstate : ByChannel ChState
  /-- `IRQMASK` (R31). -/
  irqMask : Bool
  /-- `IRQSAVE` (R31). -/
  irqSave : Bool
  /-- `FCODE` (R23). -/
  fcode : StatusCode
  /-- `HALT` (R23). -/
  halt : Bool
  /-- `PINMUX`: the pins that have a selector, pins strictly rising (R32). -/
  pinmux : List (PinId × AfSel)
  /-- Inputs waiting, oldest first (log 11). -/
  inputs : List Input
  /-- FREE: how many TICKs fall before each micro-step to come (R71, R210, spec/93 U12; log 12). -/
  schedule : List Nat
  /-- Outputs so far, newest first (log 14). -/
  outputs : List Output
  deriving DecidableEq, Repr

/-- Reasons a raw bus access stops. No step of the block raises one: every command is answered (R240), and a
construction fault is a state of the block (`HALT`), not a stop of the model. -/
inductive Fault where
  /-- Raised by `busRead` and `busWrite` at an address that is no word of the register block (R62, R64: "no agent
  can make one"). Safe: no command makes such an access. -/
  | noSuchAddress (addr : Nat)
  deriving DecidableEq, Repr

/-- Reasons a step has no meaning. -/
inductive Refusal where
  /-- Raised by an arm of `exec` whose command has no meaning yet; none is left. Safe. -/
  | notModelled (mnemonic : String)
  deriving DecidableEq, Repr

/-- The state after hardware reset (R35, R280). `pinmux`, `inputs`, `schedule` and `outputs` are the model's choice
(log 15, 11, 12, 14); the configuration is the open one (log 9). -/
def State.reset : State where
  cfg := ⟨Config.clkHz, Config.bind, Config.baseWord⟩
  psc := 0x0000#16
  arr := 0xFFFF#16
  ccr := ⟨0#16, 0#16, 0#16, 0#16⟩
  cen := false
  ocpe := ⟨false, false, false, false⟩
  ocm := ⟨0b000#3, 0b000#3, 0b000#3, 0b000#3⟩
  cce := ⟨false, false, false, false⟩
  cnt := 0x0000#16
  psccnt := 0x0000#16
  ccra := ⟨0#16, 0#16, 0#16, 0#16⟩
  clken := false
  initialized := false
  chstate := ⟨.unassigned, .unassigned, .unassigned, .unassigned⟩
  irqMask := false
  irqSave := false
  fcode := 0#4
  halt := false
  pinmux := []
  inputs := []
  schedule := []
  outputs := []

end Sys2Proof.Machine
end

