-- ==== Sys2Proof/Machine/Operands.lean ====
section
/-! DEFINITION. What a command's operands select: the per-channel registers and constants of R151, the register
map of R61 with its words, the binding table (R191), the pin record (R32), and the integer arithmetic of R8 to
R10. -/

namespace Sys2Proof.Machine

/-- `X[ch]` (R12). -/
def ByChannel.get {α : Type} (v : ByChannel α) : Channel → α
  | .c1 => v.c1 | .c2 => v.c2 | .c3 => v.c3 | .c4 => v.c4

/-- `X[ch] <- a` (R11, R12): the other channels keep their value. -/
def ByChannel.set {α : Type} (v : ByChannel α) (ch : Channel) (a : α) : ByChannel α :=
  match ch with
  | .c1 => { v with c1 := a } | .c2 => { v with c2 := a } | .c3 => { v with c3 := a } | .c4 => { v with c4 := a }

/-- `ceil_div(a, b)` (R9): the least `q` with `q * b ≥ a`. -/
def ceilDiv (a b : Nat) : Nat := if a = 0 then 0 else (a - 1) / b + 1

/-- `to_u16(n)` (R10): fails outside 0 to 65535; never wraps, clamps or truncates. -/
def toU16 (n : Int) : Option Half :=
  if 0 ≤ n ∧ n ≤ 65535 then some (BitVec.ofNat 16 n.toNat) else none

/-- The mode value "110", PWM mode 1 (R97; `MODE_PWM1`, R4). -/
def pwmMode1 : OcMode := 0b110#3

/-- The registers of the block (R61). -/
inductive Reg where
  | cr1 | ccmr1 | ccmr2 | ccer | cnt | psc | arr
  | ccr (ch : Channel)
  deriving DecidableEq, Repr

/-- Byte offset from `BASE` (R61). -/
def Reg.offset : Reg → Nat
  | .cr1 => 0x00 | .ccmr1 => 0x18 | .ccmr2 => 0x1C | .ccer => 0x20 | .cnt => 0x24 | .psc => 0x28 | .arr => 0x2C
  | .ccr .c1 => 0x34 | .ccr .c2 => 0x38 | .ccr .c3 => 0x3C | .ccr .c4 => 0x40

/-- The implemented bits of a register word (R61, R24 to R27); the others are RAZ/WI (R33). -/
def Reg.implemented : Reg → Word
  | .cr1 => 0x00000001#32
  | .ccmr1 | .ccmr2 => 0x00007878#32
  | .ccer => 0x00001111#32
  | .cnt | .psc | .arr | .ccr _ => 0x0000FFFF#32

/-- The data registers by number, `x[0]` to `x[5]` (R21). -/
def dataReg : Fin 6 → Reg
  | 0 => .psc | 1 => .arr | 2 => .ccr .c1 | 3 => .ccr .c2 | 4 => .ccr .c3 | 5 => .ccr .c4

/-- The word of a mode register from its two channels' fields (R25): preload bits 3 and 11, mode bits 6:4 and
14:12, the rest zero. -/
def modeWord (lo hi : Bool × OcMode) : Word :=
  0#17 ++ hi.2 ++ BitVec.ofBool hi.1 ++ 0#4 ++ lo.2 ++ BitVec.ofBool lo.1 ++ 0#3

/-- The word of `CCER` (R26): enable bits 0, 4, 8, 12, the rest zero. -/
def enableWord (e : ByChannel Bool) : Word :=
  0#19 ++ BitVec.ofBool e.c4 ++ 0#3 ++ BitVec.ofBool e.c3 ++ 0#3 ++ BitVec.ofBool e.c2 ++ 0#3 ++ BitVec.ofBool e.c1

/-- The word a register reads as, every reserved bit zero (R62, R33). -/
def readReg (r : Reg) (s : State) : Word :=
  match r with
  | .cr1   => (BitVec.ofBool s.cen).setWidth 32
  | .ccmr1 => modeWord (s.ocpe.c1, s.ocm.c1) (s.ocpe.c2, s.ocm.c2)
  | .ccmr2 => modeWord (s.ocpe.c3, s.ocm.c3) (s.ocpe.c4, s.ocm.c4)
  | .ccer  => enableWord s.cce
  | .cnt   => s.cnt.setWidth 32
  | .psc   => s.psc.setWidth 32
  | .arr   => s.arr.setWidth 32
  | .ccr ch => (s.ccr.get ch).setWidth 32

/-- A duty register is written (R156): with the preload bit clear the active value follows in the same instant
(R28, R66). -/
def writeDuty (ch : Channel) (d : Half) (s : State) : State :=
  { s with ccr := s.ccr.set ch d, ccra := if s.ocpe.get ch then s.ccra else s.ccra.set ch d }

/-- A register word is written: each implemented field takes the matching bits, the others are dropped (R62). -/
def writeReg (r : Reg) (v : Word) (s : State) : State :=
  match r with
  | .cr1   => { s with cen := v.getLsbD 0 }
  | .ccmr1 => { s with ocpe := { s.ocpe with c1 := v.getLsbD 3, c2 := v.getLsbD 11 },
                       ocm := { s.ocm with c1 := v.extractLsb' 4 3, c2 := v.extractLsb' 12 3 } }
  | .ccmr2 => { s with ocpe := { s.ocpe with c3 := v.getLsbD 3, c4 := v.getLsbD 11 },
                       ocm := { s.ocm with c3 := v.extractLsb' 4 3, c4 := v.extractLsb' 12 3 } }
  | .ccer  => { s with cce := ⟨v.getLsbD 0, v.getLsbD 4, v.getLsbD 8, v.getLsbD 12⟩ }
  | .cnt   => { s with cnt := v.setWidth 16 }
  | .psc   => { s with psc := v.setWidth 16 }
  | .arr   => { s with arr := v.setWidth 16 }
  | .ccr ch => writeDuty ch (v.setWidth 16) s

/-- The mode register of a channel, column `MOFF` of R151. -/
def modeReg : Channel → Reg
  | .c1 | .c2 => .ccmr1
  | .c3 | .c4 => .ccmr2

/-- Both fields of a channel in its mode register, column `MCLR` of R151. -/
def modeClear : Channel → Word
  | .c1 | .c3 => 0x00000078#32
  | .c2 | .c4 => 0x00007800#32

/-- Preload 1 and mode `0b110`, column `MSET` of R151. -/
def modeSet : Channel → Word
  | .c1 | .c3 => 0x00000068#32
  | .c2 | .c4 => 0x00006800#32

/-- The enable bit of a channel in `CCER`, column `EBIT` of R151. -/
def enableBit : Channel → Word
  | .c1 => 0x00000001#32
  | .c2 => 0x00000010#32
  | .c3 => 0x00000100#32
  | .c4 => 0x00001000#32

/-- The compare register of a channel, column `DOFF` of R151. -/
def dutyReg (ch : Channel) : Reg := .ccr ch

/-- `BIND(pin, ch)`, a partial function (R191): the first row of the pair. -/
def bindLookup (cfg : Params) (pin : PinId) (ch : Channel) : Option AfSel :=
  (cfg.bind.find? fun r => r.pin == pin && r.ch == ch).map (·.sel)

/-- The channel owns the pin (R30). -/
def owns (s : State) (pin : PinId) (ch : Channel) : Bool := s.chstate.get ch == .assigned pin

/-- `pin in OWNED` (R30). -/
def owned (s : State) (pin : PinId) : Bool :=
  owns s pin .c1 || owns s pin .c2 || owns s pin .c3 || owns s pin .c4

/-- `PINMUX[pin]` (R32). -/
def pinmuxGet : List (PinId × AfSel) → PinId → Option AfSel
  | [], _ => none
  | (p, sel) :: rest, pin => if p = pin then some sel else pinmuxGet rest pin

/-- `PINMUX[pin] <- sel` (R32), keeping the pins strictly rising. -/
def pinmuxSet : List (PinId × AfSel) → PinId → AfSel → List (PinId × AfSel)
  | [], pin, sel => [(pin, sel)]
  | (p, a) :: rest, pin, sel =>
    if pin = p then (pin, sel) :: rest
    else if pin < p then (pin, sel) :: (p, a) :: rest
    else (p, a) :: pinmuxSet rest pin sel

/-- The canonical form of the pin record: pins strictly rising, so equal records are equal lists. -/
def pinmuxWf (l : List (PinId × AfSel)) : Bool := decide (l.Pairwise fun a b => a.1 < b.1)

end Sys2Proof.Machine
end

