-- ==== Sys2Proof/Machine/Counter.lean ====
section
/-! DEFINITION. The counter agent (R210 to R214) and the channel outputs (R215). -/

namespace Sys2Proof.Machine

/-- "`TICK` is enabled exactly when `CLKEN = 1` and `CR1.CEN = 1`" (R210). -/
def tickEnabled (s : State) : Bool := s.clken && s.cen

/-- The update event: every `CCRA[ch] <- CCR[ch]` (R213). -/
def updateEvent (s : State) : State := { s with ccra := s.ccr }

/-- One step of the counter (R212): wrap after `ARR` with the update event, else count up. -/
def counterTick (s : State) : State :=
  if s.arr ≤ s.cnt then updateEvent { s with cnt := 0#16 } else { s with cnt := s.cnt + 1#16 }

/-- One cycle of the timer's input clock (R210, R211); without the enable the counter has no step and the state
holds. -/
def tick (s : State) : State :=
  if tickEnabled s then
    if s.psc ≤ s.psccnt then counterTick { s with psccnt := 0#16 } else { s with psccnt := s.psccnt + 1#16 }
  else s

/-- `n` TICKs. -/
def tickN : Nat → State → State
  | 0, s => s
  | n + 1, s => tickN n (tick s)

/-- The TICKs that fall before the next micro-step (R71, R210): as many as the free schedule says, none when it says
nothing (log 12). -/
def dueTicks (s : State) : State :=
  match s.schedule with
  | [] => s
  | n :: rest => tickN n { s with schedule := rest }

/-- The states a run of `n` TICKs passes through, both ends included. -/
def tickTrail : Nat → State → List State
  | 0, s => [s]
  | n + 1, s => s :: tickTrail n (tick s)

/-- The states the TICKs before the next micro-step pass through (R71). -/
def dueTrail (s : State) : List State :=
  match s.schedule with
  | [] => [s]
  | n :: rest => tickTrail n { s with schedule := rest }

/-- The output `OC[ch]`, a function of the state (R215): PWM mode 1, active high; a disabled channel drives 0; an
enabled one in another mode is unspecified, a free value (log 16). -/
def oc (ch : Channel) (s : State) : Bool :=
  if s.cce.get ch = false then false
  else if s.ocm.get ch = pwmMode1 then decide (s.cnt < s.ccra.get ch)
  else Config.anyLevel State s ch

/-- The channel whose output a pin carries after ASSIGN (R194, R215), if any: the one that is Assigned to it. DESIGN
CHOICE (log 35): after a hardware reset `PINMUX` keeps the old route while no channel is Assigned (R35, R280), and the
spec does not say whether the pin still carries `OC`; here it carries no channel until the next ASSIGN. -/
def pinDriver (s : State) (pin : PinId) : Option Channel :=
  if owns s pin .c1 then some .c1 else if owns s pin .c2 then some .c2
  else if owns s pin .c3 then some .c3 else if owns s pin .c4 then some .c4 else none

end Sys2Proof.Machine
end

