-- ==== Sys2Proof/Machine/Flags.lean ====
section
/-! DEFINITION. The block has no condition codes (R23). Its one flag-like record is `FCODE`/`HALT`; this file holds
the status codes (R96, R241), the response word (R96) and the latch of `FCODE`. -/

namespace Sys2Proof.Machine

/-- The statuses of R96; codes `0xB` to `0xF` are never produced and have no constructor (spec/93 U16). -/
inductive Status where
  | ok
  | zeroFrequency
  | unrepresentable
  | illegalCommand
  | notInitialized
  | alreadyInitialized
  | notAssigned
  | alreadyAssigned
  | invalidBinding
  | pinInUse
  | halted
  deriving DecidableEq, Repr

/-- Status codes (R96). -/
def Status.code : Status → StatusCode
  | .ok                 => 0x0#4
  | .zeroFrequency      => 0x1#4
  | .unrepresentable    => 0x2#4
  | .illegalCommand     => 0x3#4
  | .notInitialized     => 0x4#4
  | .alreadyInitialized => 0x5#4
  | .notAssigned        => 0x6#4
  | .alreadyAssigned    => 0x7#4
  | .invalidBinding     => 0x8#4
  | .pinInUse           => 0x9#4
  | .halted             => 0xA#4

/-- The response word: `STATUS[19:16]`, `DATA[15:0]` (R96). -/
def responseWord (st : Status) (data : Half) : ResponseWord := st.code ++ data

/-- "`if FCODE = 0 then FCODE <- code`" (R242, R243): the first non-OK status stays (R23). -/
def latchCode (st : Status) (fcode : StatusCode) : StatusCode := if fcode = 0#4 then st.code else fcode

end Sys2Proof.Machine
end

