-- ==== Sys2Proof/Machine/Ops.lean ====
section
/-! DEFINITION. The shared operations: raw bus accesses (R62), the critical section (R69), the two resets (R280,
R281), fault and refusal entry (R242, R243), and the arbiter's micro-steps and sequencer (R68, R70, R71). -/

namespace Sys2Proof.Machine

/-- What a byte offset from `BASE` names (R61, R33). -/
inductive BusTarget where
  | reg (r : Reg)
  /-- A word-aligned offset of the block that R61 does not list: RAZ/WI. -/
  | reserved
  /-- No word of the block. -/
  | absent
  deriving DecidableEq, Repr

/-- The register map by offset (R61). -/
def busTarget : Nat → BusTarget
  | 0x00 => .reg .cr1 | 0x18 => .reg .ccmr1 | 0x1C => .reg .ccmr2 | 0x20 => .reg .ccer | 0x24 => .reg .cnt
  | 0x28 => .reg .psc | 0x2C => .reg .arr | 0x34 => .reg (.ccr .c1) | 0x38 => .reg (.ccr .c2)
  | 0x3C => .reg (.ccr .c3) | 0x40 => .reg (.ccr .c4)
  | 0x04 | 0x08 | 0x0C | 0x10 | 0x14 | 0x30 => .reserved
  | _ => .absent

/-- The target of an absolute byte address. -/
def addressTarget (addr : Nat) (s : State) : BusTarget :=
  if s.cfg.base ≤ addr then busTarget (addr - s.cfg.base) else .absent

/-- `MemRead(addr, 4)` (R11, R62): no state changes (R66). -/
def busRead (addr : Nat) (s : State) : Except Fault Word :=
  match addressTarget addr s with
  | .reg r    => .ok (readReg r s)
  | .reserved => .ok 0#32
  | .absent   => .error (.noSuchAddress addr)

/-- `MemWrite(addr, 4, v)` (R11, R62). -/
def busWrite (addr : Nat) (v : Word) (s : State) : Except Fault State :=
  match addressTarget addr s with
  | .reg r    => .ok (writeReg r v s)
  | .reserved => .ok s
  | .absent   => .error (.noSuchAddress addr)

/-- `CS_ENTER()` (R69). -/
def csEnter (s : State) : State := { s with irqSave := s.irqMask, irqMask := true }

/-- `CS_EXIT()` (R69): a restore, not an unconditional unmask. -/
def csExit (s : State) : State := { s with irqMask := s.irqSave }

/-- `emit E(...)` (R11). -/
def emit (o : Output) (s : State) : State := { s with outputs := o :: s.outputs }

/-- The one response of a command (R96). -/
def respond (st : Status) (data : Half) (s : State) : State := emit (.response (responseWord st data)) s

/-- Construction fault entry (R242): the block halts, the first code stays, the response carries the code. -/
def constructionFault (st : Status) (s : State) : State :=
  respond st 0#16 { s with halt := true, fcode := latchCode st s.fcode }

/-- Refusal entry (R243): nothing changes but `FCODE`, if it was 0. -/
def refuse (st : Status) (s : State) : State := respond st 0#16 { s with fcode := latchCode st s.fcode }

/-- The only way out of a construction fault (R245): hardware reset (R280, R35). It does not change `PINMUX` or the
configuration; the record of the ports is not the block's. -/
def hardwareReset (s : State) : State :=
  { State.reset with cfg := s.cfg, pinmux := s.pinmux, inputs := s.inputs, schedule := s.schedule,
                     outputs := s.outputs }

/-- The peripheral reset pulse (R121, R281; R35, third column). -/
def peripheralReset (s : State) : State :=
  { s with cen := State.reset.cen, ocpe := State.reset.ocpe, ocm := State.reset.ocm, cce := State.reset.cce,
           cnt := State.reset.cnt, psccnt := State.reset.psccnt, psc := State.reset.psc, arr := State.reset.arr,
           ccr := State.reset.ccr, ccra := State.reset.ccra }

/-- A word that matches no row (R94): refused, after the `HALT` test (R244). -/
def illegalCommand (s : State) : State :=
  if s.halt then refuse .halted s else refuse .illegalCommand s

/-- A micro-step (R71): one line of a command's pseudocode. `load` and `modify` work on the word last read, the
pseudocode's local `m`, `e` or `w`. -/
inductive MicroOp where
  /-- `CS_ENTER()`. -/
  | csEnter
  /-- `CS_EXIT()`. -/
  | csExit
  /-- `w <- MemRead(BASE + r.offset, 4)`. -/
  | load (r : Reg)
  /-- `MemWrite(BASE + r.offset, 4, (w & ~clear) | set)`. -/
  | modify (r : Reg) (clear set : Word)
  /-- `MemWrite(BASE + r.offset, 4, v)`. -/
  | store (r : Reg) (v : Word)
  /-- `emit CLK_ENABLE(); CLKEN <- 1`. -/
  | clkEnable
  /-- `emit PERIPH_RESET_PULSE(); timer registers <- reset`. -/
  | peripheralReset
  /-- `INITIALIZED <- 1`. -/
  | setInitialized
  /-- `emit AF_SELECT(pin, sel)`, which sets `PINMUX[pin] <- sel`. -/
  | afSelect (pin : PinId) (sel : AfSel)
  /-- `CHSTATE[ch] <- Assigned(pin)`. -/
  | setAssigned (ch : Channel) (pin : PinId)
  /-- `reply(0)`. -/
  | reply
  /-- `reply(w[15:0])`. -/
  | replyData
  /-- `raise F` for a construction fault `F`. -/
  | raise (st : Status)
  deriving DecidableEq, Repr

/-- One micro-step on the word last read and the state. -/
def MicroOp.run (w : Word) (s : State) : MicroOp → Word × State
  | .csEnter            => (w, Machine.csEnter s)
  | .csExit             => (w, Machine.csExit s)
  | .load r             => (readReg r s, s)
  | .modify r clear set => (w, writeReg r ((w &&& ~~~clear) ||| set) s)
  | .store r v          => (w, writeReg r v s)
  | .clkEnable          => (w, emit .clkEnable { s with clken := true })
  | .peripheralReset    => (w, emit .periphResetPulse (Machine.peripheralReset s))
  | .setInitialized     => (w, { s with initialized := true })
  | .afSelect pin sel   => (w, emit (.afSelect pin sel) { s with pinmux := pinmuxSet s.pinmux pin sel })
  | .setAssigned ch pin => (w, { s with chstate := s.chstate.set ch (.assigned pin) })
  | .reply              => (w, respond .ok 0#16 s)
  | .replyData          => (w, respond .ok (w.setWidth 16) s)
  | .raise st           => (w, constructionFault st s)

/-- The arbiter runs a command's micro-steps in order, each complete before the next (R68), with the counter's
TICKs between them (R71). -/
def runMicro : List MicroOp → Word → State → State
  | [], _, s => s
  | op :: ops, w, s => runMicro ops (op.run w (dueTicks s)).1 (op.run w (dueTicks s)).2

/-- The state before each micro-step, after each TICK before it, after it, and so on to the end: every instant of a
command (R34, R153). -/
def microInstants : List MicroOp → Word → State → List State
  | [], _, s => [s]
  | op :: ops, w, s => s :: (dueTrail s ++ microInstants ops (op.run w (dueTicks s)).1 (op.run w (dueTicks s)).2)

/-- A command is either refused with a status before it does anything (R243, R248) or is a list of micro-steps. -/
abbrev Plan := Except Status (List MicroOp)

/-- Run a plan. The word last read is not used before the first read (log 23). -/
def perform (p : Plan) (s : State) : State :=
  match p with
  | .error st => refuse st s
  | .ok ops   => runMicro ops 0#32 s

/-- The instants of a plan. -/
def planInstants (p : Plan) (s : State) : List State :=
  match p with
  | .error st => [s, refuse st s]
  | .ok ops   => microInstants ops 0#32 s

end Sys2Proof.Machine
end

