-- ==== Sys2Proof/Machine/Binding.lean ====
section
/-! DEFINITION. ASSIGN, the binding unit (spec/42_assign.md). -/

namespace Sys2Proof.Machine

/-- The plan of ASSIGN (R190): its refusals in their order, then the event and the transition. `elsewhere` says
which pins other instances own (R193); one instance by itself has none. -/
def planAssignAmong (elsewhere : PinId → Bool) (ch : Channel) (pin : PinId) (s : State) : Plan :=
  if s.halt then .error .halted
  else if !s.initialized then .error .notInitialized
  else
    match s.chstate.get ch with
    | .assigned _ => .error .alreadyAssigned
    | .unassigned =>
      match bindLookup s.cfg pin ch with
      | none => .error .invalidBinding
      | some sel =>
        if owned s pin || elsewhere pin then .error .pinInUse
        else .ok [.afSelect pin sel, .setAssigned ch pin, .reply]

/-- The plan of ASSIGN in one instance (R190). -/
def planAssign (ch : Channel) (pin : PinId) (s : State) : Plan := planAssignAmong (fun _ => false) ch pin s

/-- `ASSIGN c<n>, pin` (R190). -/
def execAssign (ch : Channel) (pin : PinId) (s : State) : Host.Outcome State Fault Refusal :=
  .next (perform (planAssign ch pin s) s)

end Sys2Proof.Machine
end

