-- ==== Sys2Proof/Machine/ChannelProtocol.lean ====
section
/-! DEFINITION. The five channel commands (spec/41_channel_protocol.md). -/

namespace Sys2Proof.Machine

/-- Admission of a channel command (R150): the first test that fails decides the status. -/
def admission (ch : Channel) (s : State) : Option Status :=
  if s.halt then some .halted
  else if !s.initialized then some .notInitialized
  else
    match s.chstate.get ch with
    | .unassigned => some .notAssigned
    | .assigned _ => none

/-- A channel command's plan: refused, or its micro-steps. -/
def channelPlan (ch : Channel) (s : State) (ops : List MicroOp) : Plan :=
  match admission ch s with
  | some st => .error st
  | none    => .ok ops

/-- The micro-steps of ENABLE (R152): preload and mode in one read-modify-write, then the enable bit in another. -/
def enableOps (ch : Channel) : List MicroOp :=
  [.csEnter, .load (modeReg ch), .modify (modeReg ch) (modeClear ch) (modeSet ch),
   .load .ccer, .modify .ccer 0#32 (enableBit ch), .csExit, .reply]

/-- The micro-steps of DISABLE (R154). -/
def disableOps (ch : Channel) : List MicroOp :=
  [.csEnter, .load .ccer, .modify .ccer (enableBit ch) 0#32, .csExit, .reply]

/-- The micro-steps of GET_DUTY (R155). -/
def getDutyOps (ch : Channel) : List MicroOp := [.load (dutyReg ch), .replyData]

/-- The micro-steps of SET_DUTY (R156): no range check (R157). -/
def setDutyOps (ch : Channel) (value : Half) : List MicroOp := [.store (dutyReg ch) (value.setWidth 32), .reply]

/-- The micro-steps of GET_MAX_DUTY (R158): the channel is used for admission only. -/
def getMaxDutyOps : List MicroOp := [.load .arr, .replyData]

/-- `ENABLE c<n>` (R152). -/
def execEnable (ch : Channel) (s : State) : Host.Outcome State Fault Refusal :=
  .next (perform (channelPlan ch s (enableOps ch)) s)

/-- `DISABLE c<n>` (R154). -/
def execDisable (ch : Channel) (s : State) : Host.Outcome State Fault Refusal :=
  .next (perform (channelPlan ch s (disableOps ch)) s)

/-- `GET_DUTY c<n>` (R155). -/
def execGetDuty (ch : Channel) (s : State) : Host.Outcome State Fault Refusal :=
  .next (perform (channelPlan ch s (getDutyOps ch)) s)

/-- `SET_DUTY c<n>, value` (R156). -/
def execSetDuty (ch : Channel) (value : Half) (s : State) : Host.Outcome State Fault Refusal :=
  .next (perform (channelPlan ch s (setDutyOps ch value)) s)

/-- `GET_MAX_DUTY c<n>` (R158). -/
def execGetMaxDuty (ch : Channel) (s : State) : Host.Outcome State Fault Refusal :=
  .next (perform (channelPlan ch s getMaxDutyOps) s)

end Sys2Proof.Machine
end

