-- ==== Sys2Proof/Machine/Synthesiser.lean ====
section
/-! DEFINITION. INIT, the Timer Initializer (spec/40_init.md). -/

namespace Sys2Proof.Machine

/-- `ticks <- clk div freq` (R124, R8), for `freq ≥ 1`. -/
def initTicks (clk freq : Hz) : Nat := clk.toNat / freq.toNat

/-- Steps 3 to 5 (R123 to R126): the prescaler and the reload, or the construction fault. -/
def synthesise (clk freq : Hz) : Except Status (Half × Half) :=
  if freq = 0#32 then .error .zeroFrequency
  else
    match toU16 ((ceilDiv (initTicks clk freq) 65536 : Int) - 1) with
    | none => .error .unrepresentable
    | some psc =>
      match toU16 (initTicks clk freq / (psc.toNat + 1) : Nat) with
      | none     => .error .unrepresentable
      | some arr => .ok (psc, arr)

/-- Step 6 and completion (R127, R128), or the fault. -/
def initFinish : Except Status (Half × Half) → List MicroOp
  | .error st        => [.raise st]
  | .ok (psc, arr)   =>
    [.store .psc (psc.setWidth 32), .store .arr (arr.setWidth 32), .store .cr1 0x00000001#32, .setInitialized, .reply]

/-- The plan of INIT (R120): the two refusals, then step 1, then the rest. -/
def planInit (freq : Hz) (s : State) : Plan :=
  if s.halt then .error .halted
  else if s.initialized then .error .alreadyInitialized
  else .ok (.clkEnable :: .peripheralReset :: initFinish (synthesise s.cfg.clkHz freq))

/-- `INIT freq` (R120). -/
def execInit (freq : Hz) (s : State) : Host.Outcome State Fault Refusal := .next (perform (planInit freq s) s)

end Sys2Proof.Machine
end

