-- ==== Sys2Proof/Machine/Plans.lean ====
section
/-! DEFINITION. The plan of every command and its instants, for statements that look inside a command (R34, R71,
R153). -/

namespace Sys2Proof.Machine

/-- The plan a command's meaning runs. -/
def planOf (i : Instr) (s : State) : Plan :=
  match i with
  | .init freq      => planInit freq s
  | .assign ch pin  => planAssign ch pin s
  | .enable ch      => channelPlan ch s (enableOps ch)
  | .disable ch     => channelPlan ch s (disableOps ch)
  | .getDuty ch     => channelPlan ch s (getDutyOps ch)
  | .setDuty ch v   => channelPlan ch s (setDutyOps ch v)
  | .getMaxDuty ch  => channelPlan ch s getMaxDutyOps

/-- Every instant of a command: before, between and after its micro-steps and their TICKs (R71). -/
def instants (i : Instr) (s : State) : List State := planInstants (planOf i s) s

/-- The registers a micro-step stores to; the peripheral reset stores to all of them (R121). -/
def storesOf : MicroOp → List Reg
  | .modify r _ _ => [r]
  | .store r _    => [r]
  | .peripheralReset =>
    [.cr1, .ccmr1, .ccmr2, .ccer, .cnt, .psc, .arr, .ccr .c1, .ccr .c2, .ccr .c3, .ccr .c4]
  | .csEnter | .csExit | .load _ | .clkEnable | .setInitialized | .afSelect _ _ | .setAssigned _ _
  | .reply | .replyData | .raise _ => []

/-- The byte addresses a command stores to, from the micro-steps its meaning runs. -/
def storedAddresses (i : Instr) (s : State) : List Nat :=
  match planOf i s with
  | .error _ => []
  | .ok ops  => (ops.flatMap storesOf).map fun r => s.cfg.base + r.offset

end Sys2Proof.Machine
end

