-- ==== Sys2Proof/Machine/Dispatch.lean ====
section
/-! DEFINITION. One arm per command. -/

namespace Sys2Proof.Machine

def exec (i : Instr) (s : State) : Host.Outcome State Fault Refusal :=
  match i with
  | .init freq => Sys2Proof.Machine.execInit freq s
  | .assign ch pin => Sys2Proof.Machine.execAssign ch pin s
  | .enable ch => Sys2Proof.Machine.execEnable ch s
  | .disable ch => Sys2Proof.Machine.execDisable ch s
  | .getDuty ch => Sys2Proof.Machine.execGetDuty ch s
  | .setDuty ch value => Sys2Proof.Machine.execSetDuty ch value s
  | .getMaxDuty ch => Sys2Proof.Machine.execGetMaxDuty ch s

end Sys2Proof.Machine
end

