-- ==== Sys2Proof/Machine/Issue.lean ====
section
/-! DEFINITION. What the block does with each input (D1, R70, R95, R280), and how a command word is placed where
the next step takes it. -/

namespace Sys2Proof.Machine

/-- A command word is decoded whole and run to its response, or refused as illegal (R94, R95, R70). -/
def issue (cw : CommandWord) (s : State) : Host.Outcome State Fault Refusal :=
  match decode cw with
  | .ok i    => exec i s
  | .error _ => .next (illegalCommand s)

/-- The effect of one input. -/
def accept (inp : Input) (s : State) : Host.Outcome State Fault Refusal :=
  match inp with
  | .command cw    => issue cw s
  | .tick          => .next (tick s)
  | .hardwareReset => .next (hardwareReset s)
  | .setIrqMask b  => .next { s with irqMask := b }

/-- The oldest input is taken; with none waiting the block waits and the counter runs on (R22, R210; log 13). -/
def stepOnce (s : State) : Host.Outcome State Fault Refusal :=
  match s.inputs with
  | []          => .next (tick s)
  | inp :: rest => accept inp { s with inputs := rest }

/-- The command word of a table word (R90, R101). DESIGN CHOICE (log 25): a table word with a set bit above bit 39 is no
command and does not fit the port, so an illegal word (opcode 0) stands for it, which the step then refuses. -/
def tableCommand (nbits w : Nat) : CommandWord :=
  if w % 2 ^ nbits < 2 ^ 40 then BitVec.ofNat 40 (w % 2 ^ nbits) else 0x0000000000#40

/-- A command word becomes the oldest waiting input (log 11). -/
def placeCommand (cw : CommandWord) (s : State) : State := { s with inputs := .command cw :: s.inputs }

/-- The responses given so far, newest first. -/
def responses (s : State) : List ResponseWord :=
  s.outputs.filterMap fun o => match o with | .response w => some w | _ => none

/-- The host-side index `pc` of R22: how many responses have been given. -/
def hostIndex (s : State) : Nat := (responses s).length

/-- A host hands the block a list of command words (R22). -/
def loadProgram (cws : List CommandWord) (s : State) : State :=
  { s with inputs := s.inputs ++ cws.map .command }

end Sys2Proof.Machine
end

