-- ==== Sys2Proof/Machine/Step.lean ====
section
/-! DEFINITION. One step of the block. -/

namespace Sys2Proof.Machine

/-- One step: the oldest input, or a TICK while none waits. -/
def step (s : State) : Host.Outcome State Fault Refusal := stepOnce s

/-- The table word `w` becomes the next command the block takes. -/
def State.withFetchWord (s : State) (nbits w : Nat) : State := placeCommand (tableCommand nbits w) s

end Sys2Proof.Machine
end

