-- ==== Sys2Proof/Machine/System.lean ====
section
/-! DEFINITION. Several timer instances side by side (R73): independent copies of the block that share one set of
owned pins (R193, D31). -/

namespace Sys2Proof.Machine

/-- The instances, "Timer A", "Timer B" and so on (R73). -/
structure System where
  timers : List State
  deriving DecidableEq, Repr

/-- A pin owned by an instance other than number `k` (R193). -/
def ownedElsewhere (sys : System) (k : Nat) (pin : PinId) : Bool :=
  sys.timers.zipIdx.any fun p => p.2 != k && owned p.1 pin

/-- A step of one instance that knows which pins the others own: only ASSIGN asks (R193). DEDUCED (log 26): a pin that
another instance owns is refused with `PinInUse`. -/
def stepAmong (elsewhere : PinId → Bool) (s : State) : Host.Outcome State Fault Refusal :=
  match s.inputs with
  | .command cw :: rest =>
    match decode cw with
    | .ok (.assign ch pin) =>
      .next (perform (planAssignAmong elsewhere ch pin { s with inputs := rest }) { s with inputs := rest })
    | _ => step s
  | _ => step s

/-- Instance `k` steps; the others keep their state (R73). -/
def systemStep (k : Nat) (sys : System) : Option (Host.Outcome System Fault Refusal) :=
  (sys.timers[k]?).map fun s =>
    match stepAmong (ownedElsewhere sys k) s with
    | .next t    => .next ⟨sys.timers.set k t⟩
    | .fault f   => .fault f
    | .refused r => .refused r

end Sys2Proof.Machine
end

