-- ==== Sys2Proof/Machine/Text.lean ====
section
/-! DEFINITION. The textual form of a command, one line (R98). There are no pseudo-instructions (R99). -/

namespace Sys2Proof.Machine

/-- "A `;` starts a comment" (R98). -/
def stripComment (line : List Char) : List Char := line.takeWhile (· != ';')

/-- A finished word, if any letters were read. -/
def flushWord (rev : List Char) : List (List Char) := if rev.isEmpty then [] else [rev.reverse]

/-- Words separated by blanks; a comma is a word of its own (log 27). -/
def splitWords (rev : List Char) : List Char → List (List Char)
  | [] => flushWord rev
  | c :: cs =>
    if c == ' ' || c == '\t' then flushWord rev ++ splitWords [] cs
    else if c == ',' then flushWord rev ++ [','] :: splitWords [] cs
    else splitWords (c :: rev) cs

/-- The value of a digit in a base up to 16. -/
def digitValue (base : Nat) (c : Char) : Option Nat :=
  let v := if '0' ≤ c ∧ c ≤ '9' then c.toNat - 48
           else if 'a' ≤ c ∧ c ≤ 'f' then c.toNat - 87
           else if 'A' ≤ c ∧ c ≤ 'F' then c.toNat - 55
           else base
  if v < base then some v else none

/-- Digits, most significant first. -/
def digitsValue (base : Nat) : Nat → List Char → Option Nat
  | acc, [] => some acc
  | acc, c :: cs => (digitValue base c).bind fun d => digitsValue base (base * acc + d) cs

/-- A decimal numeral. -/
def decimal (cs : List Char) : Option Nat := if cs.isEmpty then none else digitsValue 10 0 cs

/-- "decimal or 0x hexadecimal" (R98, of `freq`). -/
def decimalOrHex (cs : List Char) : Option Nat :=
  match cs with
  | '0' :: 'x' :: ds => if ds.isEmpty then none else digitsValue 16 0 ds
  | _ => decimal cs

/-- `c<n>` (R98). -/
def channelText (cs : List Char) : Option Nat :=
  match cs with
  | 'c' :: ds => decimal ds
  | _ => none

/-- Mnemonics, upper case (R98). -/
def mnemonicText : Op → List Char
  | .init       => ['I', 'N', 'I', 'T']
  | .assign     => ['A', 'S', 'S', 'I', 'G', 'N']
  | .enable     => ['E', 'N', 'A', 'B', 'L', 'E']
  | .disable    => ['D', 'I', 'S', 'A', 'B', 'L', 'E']
  | .getDuty    => ['G', 'E', 'T', '_', 'D', 'U', 'T', 'Y']
  | .setDuty    => ['S', 'E', 'T', '_', 'D', 'U', 'T', 'Y']
  | .getMaxDuty => ['G', 'E', 'T', '_', 'M', 'A', 'X', '_', 'D', 'U', 'T', 'Y']

/-- The row a mnemonic names. -/
def mnemonicOp (cs : List Char) : Option Op := (opcodeMap.map (·.op)).find? fun o => mnemonicText o == cs

/-- A command with one operand: a frequency or a channel. -/
def oneOperand (o : Op) (a : List Char) : Option SourceCommand :=
  match o with
  | .init       => (decimalOrHex a).map .init
  | .enable     => (channelText a).map .enable
  | .disable    => (channelText a).map .disable
  | .getDuty    => (channelText a).map .getDuty
  | .getMaxDuty => (channelText a).map .getMaxDuty
  | .assign     => none
  | .setDuty    => none

/-- A command with a channel and a number. -/
def twoOperands (o : Op) (a b : List Char) : Option SourceCommand :=
  match o with
  | .assign  => (channelText a).bind fun n => (decimal b).map (.assign n)
  | .setDuty => (channelText a).bind fun n => (decimal b).map (.setDuty n)
  | .init | .enable | .disable | .getDuty | .getMaxDuty => none

/-- One line of text (R98). -/
def parseLine (line : List Char) : Option SourceCommand :=
  match splitWords [] (stripComment line) with
  | [m, a]           => (mnemonicOp m).bind fun o => oneOperand o a
  | [m, a, [','], b] => (mnemonicOp m).bind fun o => twoOperands o a b
  | _ => none

/-- The command word of a line, if the line is a command with its operands in range (R93, R98). -/
def assembleLine (line : List Char) : Option CommandWord :=
  ((parseLine line).bind SourceCommand.toInstr?).map encode

end Sys2Proof.Machine
end

