-- ==== Sys2Proof/Safety.lean ====
section
/-! DEFINITION. What statements about runs are said in: the invariants of R34, the premise "nothing went wrong"
(R23, R242), and the part of the state the counter cannot touch (R71, R214). -/

namespace Sys2Proof.Machine

/-- "A claim about a run takes `FCODE = 0` as the premise" (R23). -/
def nothingWentWrong (s : State) : Prop := s.fcode = 0#4

/-- The command is admitted (R150). -/
def channelAdmitted (ch : Channel) (s : State) : Prop :=
  s.halt = false ∧ s.initialized = true ∧ ∃ p, s.chstate.get ch = .assigned p

/-- The channel of one of the five channel commands (R150). -/
def channelCommand : Instr → Option Channel
  | .enable ch | .disable ch | .getDuty ch | .setDuty ch _ | .getMaxDuty ch => some ch
  | .init _ | .assign _ _ => none

/-- The channel a command acts on; INIT takes none (R91). -/
def commandChannel : Instr → Option Channel
  | .enable ch | .disable ch | .getDuty ch | .setDuty ch _ | .getMaxDuty ch | .assign ch _ => some ch
  | .init _ => none

/-- What a refusal with status code `code` leaves (R243): `FCODE` if it was 0, and the response. -/
def refusedWith (code : StatusCode) (s : State) : State :=
  { s with fcode := if s.fcode = 0#4 then code else s.fcode,
           outputs := .response (code ++ 0x0000#16) :: s.outputs }

/-- The command is refused by the tests of R150, in their order, with their codes. -/
def refusedByAdmission (i : Instr) (ch : Channel) (s : State) : Prop :=
  (s.halt = true → exec i s = .next (refusedWith 0xA#4 s)) ∧
  (s.halt = false → s.initialized = false → exec i s = .next (refusedWith 0x4#4 s)) ∧
  (s.halt = false → s.initialized = true → s.chstate.get ch = .unassigned →
    exec i s = .next (refusedWith 0x6#4 s))

/-- The state with everything the counter writes, and the free schedule of its TICKs, blotted out: `CNT`, `PSCCNT`
and `CCRA` (R214). Two states with equal pictures differ at most in what TICKs do. -/
def withoutCounter (s : State) : State :=
  { s with cnt := 0#16, psccnt := 0#16, ccra := ⟨0#16, 0#16, 0#16, 0#16⟩, schedule := [] }

/-- How many TICKs the schedule gives to the next `k` micro-steps. -/
def scheduledTicks (k : Nat) (s : State) : Nat := (s.schedule.take k).sum

/-- How many TICKs there are to the next update event, that TICK counted, from a state within its period (R211, R212):
what is left of the present prescaler count, and a whole one for each counter value up to `ARR`. Silicon that buffers
the prescaler may count the very first period otherwise (R219, log 4). -/
def ticksToUpdate (s : State) : Nat :=
  (s.arr.toNat - s.cnt.toNat) * (s.psc.toNat + 1) + (s.psc.toNat - s.psccnt.toNat) + 1

/-- R34 (a), (b), (e): hold at command boundaries and between any two micro-steps. -/
structure InstantInv (s : State) : Prop where
  /-- (a) an enabled output is in PWM mode 1 with its preload bit set. -/
  enabledIsPwm1 : ∀ ch, s.cce.get ch = true → s.ocm.get ch = pwmMode1 ∧ s.ocpe.get ch = true
  /-- (b) with the preload bit clear the active compare value is the preload value. -/
  preloadOffFollows : ∀ ch, s.ocpe.get ch = false → s.ccra.get ch = s.ccr.get ch
  /-- (e) an assigned channel is bound, after initialisation. -/
  assignedBound : ∀ ch p, s.chstate.get ch = .assigned p →
    s.initialized = true ∧ (bindLookup s.cfg p ch).isSome = true
  /-- (e) no two channels are assigned the same pin. -/
  pinsDistinct : ∀ ch ch' p, s.chstate.get ch = .assigned p → s.chstate.get ch' = .assigned p → ch = ch'

/-- R34 (a) to (f): hold at command boundaries. -/
structure BoundaryInv (s : State) : Prop extends InstantInv s where
  /-- (c) the counter is started exactly when INIT has completed. -/
  startedIffInitialized : s.cen = s.initialized
  /-- (d) after INIT the clock is on, the reload is at least 1 and the block is not halted. -/
  initializedRuns : s.initialized = true → s.clken = true ∧ 1 ≤ s.arr.toNat ∧ s.halt = false
  /-- (f) an enabled channel is assigned. -/
  enabledAssigned : ∀ ch, s.cce.get ch = true → ∃ p, s.chstate.get ch = .assigned p

/-- What the model's state keeps beside R34: the record of a fault (R23, R242), the counters' ranges (R211, R212),
the route of every assigned pin (R194) and the canonical form of the pin record. -/
structure RecordInv (s : State) : Prop where
  /-- A halted block has a code, and only produced codes are recorded (R96, R242). -/
  haltHasCode : s.halt = true → s.fcode ≠ 0#4
  codeProduced : s.fcode.toNat ≤ 10
  /-- `CNT` never passes `ARR` and `PSCCNT` never passes `PSC`. -/
  counterInPeriod : s.cnt ≤ s.arr ∧ s.psccnt ≤ s.psc
  /-- An assigned pin is routed to its channel's selector. -/
  assignedRouted : ∀ ch p, s.chstate.get ch = .assigned p → pinmuxGet s.pinmux p = bindLookup s.cfg p ch
  /-- The pin record is canonical. -/
  pinmuxCanonical : pinmuxWf s.pinmux = true

/-- The invariant of the block at command boundaries. -/
structure BlockInv (s : State) : Prop extends BoundaryInv s, RecordInv s

end Sys2Proof.Machine
end

