-- ==== Sys2Proof/Certificates/Slice0/Obligations.lean ====
section
/-! DEFINITION. The statements about the model, for the provers. "D n" is a row of spec/92_eei_decisions.md: the
spec's own decision, normative for the model. `tickN n` is `n` TICKs of the counter; every result below says how many
TICKs the free schedule `s.schedule` put inside the command. -/

open Sys2Proof Sys2Proof.Machine

/-! ### Encoding (spec/30_encoding.md) -/

/-- Every command survives encoding and decoding, with every operand at every value (R92, R93, R95). -/
def Obligations.DecodeOfEncodeIsTheCommand : Prop :=
  ∀ i : Instr, decode (encode i) = .ok i

/-- Every word has one meaning and every command one word: a word that decodes is the encoding of what it decodes
to, so no bit of it is ignored (R92, R94). -/
def Obligations.DecodedWordIsTheEncodingOfItsCommand : Prop :=
  ∀ (cw : CommandWord) (i : Instr), decode cw = .ok i → encode i = cw

/-- "No two rows match the same word" (R92). -/
def Obligations.AtMostOneRowMatchesAWord : Prop :=
  ∀ (cw : CommandWord) (r r' : OpRow), r ∈ opcodeMap → r' ∈ opcodeMap →
    r.hits cw = true → r'.hits cw = true → r = r'

/-- Total decoding (R95): the command of the row that matches, with its operands; illegal if none does. -/
def Obligations.DecodeFollowsTheMatchingRow : Prop :=
  ∀ cw : CommandWord,
    (∀ r ∈ opcodeMap, cw &&& r.mask = r.pat → decode cw = .ok (assemble r.op cw)) ∧
    ((∀ r ∈ opcodeMap, cw &&& r.mask ≠ r.pat) → ∃ why, decode cw = .error why)

/-- The illegal words are exactly those R94 lists, and such a word is answered `IllegalCommand` (`Halted` when
`HALT = 1`, R244) and changes nothing but `FCODE`. -/
def Obligations.IllegalWordsAreTheListedOnesAndAreRefused : Prop :=
  (∀ cw : CommandWord, (∃ why, decode cw = .error why) ↔
    (opField cw = 0x0#4 ∨ 0x8#4 ≤ opField cw ∨ rsvField cw ≠ 0b00#2 ∨
      (opField cw = 0x1#4 ∧ chField cw ≠ 0b00#2) ∨
      ((opField cw = 0x3#4 ∨ opField cw = 0x4#4 ∨ opField cw = 0x5#4 ∨ opField cw = 0x7#4) ∧ immField cw ≠ 0#32) ∨
      (opField cw = 0x2#4 ∧ (immField cw).extractLsb' 8 24 ≠ 0#24) ∨
      (opField cw = 0x6#4 ∧ (immField cw).extractLsb' 16 16 ≠ 0#16))) ∧
  (∀ (s : State) (cw : CommandWord) (rest : List Input) (why : Illegal),
    s.inputs = .command cw :: rest → decode cw = .error why →
    (s.halt = false → step s = .next (refusedWith 0x3#4 { s with inputs := rest })) ∧
    (s.halt = true → step s = .next (refusedWith 0xA#4 { s with inputs := rest })))

/-- The worked encodings of R100 and the illegal words beside them. -/
def Obligations.WorkedEncodingsDecode : Prop :=
  decode 0x10000003E8#40 = .ok (.init 1000#32) ∧ decode 0x2400000006#40 = .ok (.assign .c2 6#8) ∧
  decode 0x3000000000#40 = .ok (.enable .c1) ∧ decode 0x3C00000000#40 = .ok (.enable .c4) ∧
  decode 0x4800000000#40 = .ok (.disable .c3) ∧ decode 0x5000000000#40 = .ok (.getDuty .c1) ∧
  decode 0x6000003E80#40 = .ok (.setDuty .c1 16000#16) ∧ decode 0x7400000000#40 = .ok (.getMaxDuty .c2) ∧
  decode 0x0000000000#40 = .error .reservedOpcode ∧ decode 0x3100000000#40 = .error .reservedBits ∧
  decode 0x6000010000#40 = .error .dutyTooWide ∧ decode 0x1400000064#40 = .error .channelInInit ∧
  responseWord .ok 16000#16 = 0x03E80#20 ∧ responseWord .unrepresentable 0#16 = 0x20000#20

/-- A source command in the ranges of R93, and only such a one, stands for a command, and that command has the
operands that were written. -/
def Obligations.SourceOperandsInRangeAreKept : Prop :=
  ∀ c : SourceCommand, (c.wellFormed = true ↔ ∃ i, c.toInstr? = some i) ∧
    (∀ i, c.toInstr? = some i → SourceCommand.ofInstr i = c)

/-! ### The step (R22, R70, R280) -/

/-- A step whose oldest input is a command word that decodes to `i` is the command `i`, run on the state with that
input taken. -/
def Obligations.StepRunsTheDecodedCommand : Prop :=
  ∀ (s : State) (cw : CommandWord) (rest : List Input) (i : Instr),
    s.inputs = .command cw :: rest → decode cw = .ok i → step s = exec i { s with inputs := rest }

/-- The other inputs: a TICK is one TICK, the core's write of its mask is that write, and with nothing waiting the
step is one TICK (the model's choice, log 11, 13, 18). -/
def Obligations.StepOnTicksMaskAndIdle : Prop :=
  ∀ (s : State) (rest : List Input) (b : Bool),
    (s.inputs = [] → step s = .next (tick s)) ∧
    (s.inputs = .tick :: rest → step s = .next (tick { s with inputs := rest })) ∧
    (s.inputs = .setIrqMask b :: rest → step s = .next { s with inputs := rest, irqMask := b })

/-- Hardware reset (R280): every piece of the block's state takes the second column of R35, `PINMUX` and the
configuration stay, and nothing else clears `HALT`, `FCODE`, `INITIALIZED`, `CLKEN` or `CHSTATE`. -/
def Obligations.HardwareResetRestoresAndAloneClears : Prop :=
  (∀ (s : State) (rest : List Input), s.inputs = .hardwareReset :: rest →
    step s = .next
      { s with
        psc := 0x0000#16, arr := 0xFFFF#16, ccr := ⟨0#16, 0#16, 0#16, 0#16⟩, cen := false,
        ocpe := ⟨false, false, false, false⟩, ocm := ⟨0b000#3, 0b000#3, 0b000#3, 0b000#3⟩,
        cce := ⟨false, false, false, false⟩, cnt := 0x0000#16, psccnt := 0x0000#16,
        ccra := ⟨0#16, 0#16, 0#16, 0#16⟩, clken := false, initialized := false,
        chstate := ⟨.unassigned, .unassigned, .unassigned, .unassigned⟩, irqMask := false, irqSave := false,
        fcode := 0#4, halt := false, inputs := rest }) ∧
  (∀ s t : State, (∀ rest, s.inputs ≠ .hardwareReset :: rest) → step s = .next t →
    (s.halt = true → t.halt = true) ∧ (s.fcode ≠ 0#4 → t.fcode = s.fcode) ∧
    (s.initialized = true → t.initialized = true) ∧ (s.clken = true → t.clken = true) ∧
    (∀ ch p, s.chstate.get ch = .assigned p → t.chstate.get ch = .assigned p))

/-- Every command word, legal or not, is answered by exactly one response word (R96, R240), and the host's index
moves by one (R22). -/
def Obligations.EveryCommandWordIsAnsweredOnce : Prop :=
  ∀ (s : State) (cw : CommandWord) (rest : List Input), s.inputs = .command cw :: rest →
    ∃ t w, step s = .next t ∧ responses t = w :: responses s ∧ hostIndex t = hostIndex s + 1

/-- The sticky code (R23): `FCODE` becomes the status of the first command that is not answered `OK`, and stays. -/
def Obligations.FirstNonOkStatusStays : Prop :=
  ∀ (i : Instr) (s t : State), exec i s = .next t →
    ∃ w, responses t = w :: responses s ∧
      t.fcode = if s.fcode = 0#4 then w.extractLsb' 16 4 else s.fcode

/-- Refusal entry (R243): `FCODE` if it was 0, the response with the code and no data, and nothing else; a refused
command is one whose tests fail, or a word that is no command. -/
def Obligations.RefusalChangesOnlyTheCode : Prop :=
  (∀ (i : Instr) (s : State) (st : Status), planOf i s = .error st →
    exec i s = .next
      { s with fcode := if s.fcode = 0#4 then st.code else s.fcode,
               outputs := .response (st.code ++ 0x0000#16) :: s.outputs }) ∧
  (∀ (cw : CommandWord) (s : State) (why : Illegal), decode cw = .error why →
    ∃ st : Status, (st = .halted ∨ st = .illegalCommand) ∧ issue cw s = .next
      { s with fcode := if s.fcode = 0#4 then st.code else s.fcode,
               outputs := .response (st.code ++ 0x0000#16) :: s.outputs })

/-- Construction fault entry (R242): step 1 has happened, `HALT` is set, `FCODE` latched if it was 0, no computed
value is written; and while `HALT = 1`, which always comes with a code (`RecordInv`), every command is refused with
`Halted` and changes nothing. That a faulting INIT takes three entries of the schedule is the model's reading (log 31,
DEDUCED). -/
def Obligations.ConstructionFaultHaltsTheBlock : Prop :=
  (∀ (freq : Hz) (s : State) (code : StatusCode), s.halt = false → s.initialized = false →
    ((freq = 0#32 ∧ code = 0x1#4) ∨
      (freq ≠ 0#32 ∧ (s.cfg.clkHz.toNat / freq.toNat) % 65536 = 0 ∧ code = 0x2#4)) →
    exec (.init freq) s = .next
      { s with
        psc := 0x0000#16, arr := 0xFFFF#16, ccr := ⟨0#16, 0#16, 0#16, 0#16⟩, cen := false,
        ocpe := ⟨false, false, false, false⟩, ocm := ⟨0b000#3, 0b000#3, 0b000#3, 0b000#3⟩,
        cce := ⟨false, false, false, false⟩, cnt := 0x0000#16, psccnt := 0x0000#16,
        ccra := ⟨0#16, 0#16, 0#16, 0#16⟩, clken := true, halt := true,
        fcode := if s.fcode = 0#4 then code else s.fcode, schedule := s.schedule.drop 3,
        outputs := .response (code ++ 0x0000#16) :: .periphResetPulse :: .clkEnable :: s.outputs }) ∧
  (∀ (i : Instr) (s : State), s.halt = true → s.fcode ≠ 0#4 →
    exec i s = .next { s with outputs := .response 0xA0000#20 :: s.outputs })

/-- Precision (R248): a command that is not answered `OK` leaves `CHSTATE`, `PINMUX` and, unless it is a faulting
INIT, everything but `FCODE` as it was. -/
def Obligations.NonOkCommandsArePrecise : Prop :=
  ∀ (i : Instr) (s t : State) (w : ResponseWord), exec i s = .next t → responses t = w :: responses s →
    w.extractLsb' 16 4 ≠ 0x0#4 →
    t.chstate = s.chstate ∧ t.pinmux = s.pinmux ∧ t.initialized = s.initialized ∧
    ((w.extractLsb' 16 4 = 0x1#4 ∨ w.extractLsb' 16 4 = 0x2#4) ∨
      t = { s with fcode := if s.fcode = 0#4 then w.extractLsb' 16 4 else s.fcode,
                   outputs := .response w :: s.outputs })

/-! ### INIT (spec/40_init.md) -/

/-- A successful INIT (R120 to R128): step 1, then the values of R125 and R126 written to `PSC` and `ARR`, then the
counter started from 0, in that order (R127); the TICKs that fall before the last two micro-steps are the first ones
the counter can make. That INIT has seven micro-steps, its compute-only lines merged with the line after them, is the
model's reading (log 31, DEDUCED; R120 calls every line one). -/
def Obligations.InitSetsUpAndStartsTheTimer : Prop :=
  ∀ (freq : Hz) (s : State), s.halt = false → s.initialized = false → freq ≠ 0#32 →
    (s.cfg.clkHz.toNat / freq.toNat) % 65536 ≠ 0 →
    ∃ psc arr : Half,
      psc.toNat = (s.cfg.clkHz.toNat / freq.toNat - 1) / 65536 ∧
      arr.toNat = (s.cfg.clkHz.toNat / freq.toNat) / (psc.toNat + 1) ∧
      planOf (.init freq) s = .ok
        [.clkEnable, .peripheralReset, .store .psc (psc.setWidth 32), .store .arr (arr.setWidth 32),
         .store .cr1 0x00000001#32, .setInitialized, .reply] ∧
      exec (.init freq) s = .next (tickN ((s.schedule.drop 5).take 2).sum
        { s with
          psc := psc, arr := arr, ccr := ⟨0#16, 0#16, 0#16, 0#16⟩, cen := true,
          ocpe := ⟨false, false, false, false⟩, ocm := ⟨0b000#3, 0b000#3, 0b000#3, 0b000#3⟩,
          cce := ⟨false, false, false, false⟩, cnt := 0x0000#16, psccnt := 0x0000#16,
          ccra := ⟨0#16, 0#16, 0#16, 0#16⟩, clken := true, initialized := true,
          schedule := s.schedule.drop 7,
          outputs := .response 0x00000#20 :: .periphResetPulse :: .clkEnable :: s.outputs })

/-- INIT is admitted once (R132): after an admitted INIT the block is initialised or halted, and then an INIT is refused
with `Halted` after a fault, with `AlreadyInitialized` after a success; the zero test is not reached (R244). -/
def Obligations.InitIsAdmittedOnce : Prop :=
  ∀ (freq : Hz) (s : State),
    (s.halt = false → s.initialized = false →
      ∃ t, exec (.init freq) s = .next t ∧ (t.halt = true ∨ (t.halt = false ∧ t.initialized = true))) ∧
    (s.halt = true → exec (.init freq) s = .next (refusedWith 0xA#4 s)) ∧
    (s.halt = false → s.initialized = true → exec (.init freq) s = .next (refusedWith 0x5#4 s))

/-- Which requests succeed (R131): exactly those with `ticks` not 0 and not a multiple of 65536, and the others are
`Unrepresentable`; then `PSC` is the smallest prescaler
whose reload fits 16 bits, and `ARR` is at least 1. -/
def Obligations.SynthesisSucceedsExactlyWhen : Prop :=
  ∀ clk freq : Hz, freq ≠ 0#32 →
    ((∃ psc arr : Half, synthesise clk freq = .ok (psc, arr)) ↔ (clk.toNat / freq.toNat) % 65536 ≠ 0) ∧
    (synthesise clk freq = .error .unrepresentable ↔
      (clk.toNat / freq.toNat = 0 ∨ (clk.toNat / freq.toNat) % 65536 = 0)) ∧
    (∀ psc arr : Half, synthesise clk freq = .ok (psc, arr) →
      1 ≤ arr.toNat ∧ arr.toNat = (clk.toNat / freq.toNat) / (psc.toNat + 1) ∧
      (∀ p < psc.toNat, 65535 < (clk.toNat / freq.toNat) / (p + 1)) ∧
      (psc = 0#16 ↔ clk.toNat / freq.toNat ≤ 65535))

/-- Accuracy (R130): with `P = (psc + 1) * (arr + 1)` clock cycles per period, `ticks + 1 ≤ P ≤ ticks + psc + 1`, and
the output frequency `clk / P` is strictly below the requested one. -/
def Obligations.OutputFrequencyIsStrictlyLower : Prop :=
  ∀ (clk freq : Hz) (psc arr : Half), synthesise clk freq = .ok (psc, arr) →
    clk.toNat / freq.toNat + 1 ≤ (psc.toNat + 1) * (arr.toNat + 1) ∧
    (psc.toNat + 1) * (arr.toNat + 1) ≤ clk.toNat / freq.toNat + psc.toNat + 1 ∧
    clk.toNat < freq.toNat * ((psc.toNat + 1) * (arr.toNat + 1))

/-! ### The channel commands (spec/41_channel_protocol.md) -/

/-- ENABLE (R152): its micro-steps in order, the channel's preload bit, mode and enable bit after it and nothing else,
and its refusals (R150). `IRQSAVE` keeps the mask it saved (R69). -/
def Obligations.EnableSetsPreloadModeAndEnable : Prop :=
  ∀ (ch : Channel) (s : State),
    opField (encode (.enable ch)) = 0x3#4 ∧
    (channelAdmitted ch s →
      planOf (.enable ch) s = .ok
        [.csEnter, .load (modeReg ch), .modify (modeReg ch) (modeClear ch) (modeSet ch),
         .load .ccer, .modify .ccer 0#32 (enableBit ch), .csExit, .reply] ∧
      exec (.enable ch) s = .next (tickN (scheduledTicks 7 s)
        { s with ocpe := s.ocpe.set ch true, ocm := s.ocm.set ch 0b110#3, cce := s.cce.set ch true,
                 irqSave := s.irqMask, schedule := s.schedule.drop 7,
                 outputs := .response 0x00000#20 :: s.outputs })) ∧
    refusedByAdmission (.enable ch) ch s

/-- DISABLE (R154): its micro-steps in order, the channel's enable bit cleared and nothing else, and its refusals
(R150). `IRQSAVE` keeps the mask it saved (R69). -/
def Obligations.DisableClearsTheEnableBit : Prop :=
  ∀ (ch : Channel) (s : State),
    opField (encode (.disable ch)) = 0x4#4 ∧
    (channelAdmitted ch s →
      planOf (.disable ch) s = .ok
        [.csEnter, .load .ccer, .modify .ccer (enableBit ch) 0#32, .csExit, .reply] ∧
      exec (.disable ch) s = .next (tickN (scheduledTicks 5 s)
        { s with cce := s.cce.set ch false, irqSave := s.irqMask, schedule := s.schedule.drop 5,
                 outputs := .response 0x00000#20 :: s.outputs })) ∧
    refusedByAdmission (.disable ch) ch s

/-- GET_DUTY (R155): one read, the preload value `CCR[ch]` in the response, no state written, and its refusals
(R150). -/
def Obligations.GetDutyAnswersThePreloadValue : Prop :=
  ∀ (ch : Channel) (s : State),
    opField (encode (.getDuty ch)) = 0x5#4 ∧
    (channelAdmitted ch s →
      planOf (.getDuty ch) s = .ok [.load (.ccr ch), .replyData] ∧
      exec (.getDuty ch) s = .next (tickN (scheduledTicks 2 s)
        { s with schedule := s.schedule.drop 2,
                 outputs := .response (0x0#4 ++ s.ccr.get ch) :: s.outputs })) ∧
    refusedByAdmission (.getDuty ch) ch s

/-- SET_DUTY (R156, R157): the value goes unchanged to `CCR[ch]`, and to `CCRA[ch]` in the same instant exactly when
the preload bit is clear; nothing else is written; no value is refused; and its refusals (R150). -/
def Obligations.SetDutyStoresTheValue : Prop :=
  ∀ (ch : Channel) (value : Half) (s : State),
    opField (encode (.setDuty ch value)) = 0x6#4 ∧ (immField (encode (.setDuty ch value))).extractLsb' 0 16 = value ∧
    (channelAdmitted ch s →
      ∃ u, u = tickN (scheduledTicks 1 s)
          { s with schedule := s.schedule.drop 2, outputs := .response 0x00000#20 :: s.outputs } ∧
        exec (.setDuty ch value) s = .next (tickN ((s.schedule.drop 1).take 1).sum
          { u with ccr := u.ccr.set ch value,
                   ccra := if u.ocpe.get ch = true then u.ccra else u.ccra.set ch value })) ∧
    refusedByAdmission (.setDuty ch value) ch s

/-- GET_MAX_DUTY (R158): one read of `ARR` at the time of the command, the same for every channel, no state written,
and its refusals (R150). -/
def Obligations.GetMaxDutyAnswersTheReload : Prop :=
  ∀ (ch : Channel) (s : State),
    opField (encode (.getMaxDuty ch)) = 0x7#4 ∧
    (channelAdmitted ch s →
      planOf (.getMaxDuty ch) s = .ok [.load .arr, .replyData] ∧
      exec (.getMaxDuty ch) s = .next (tickN (scheduledTicks 2 s)
        { s with schedule := s.schedule.drop 2, outputs := .response (0x0#4 ++ s.arr) :: s.outputs })) ∧
    refusedByAdmission (.getMaxDuty ch) ch s

/-- "`set_duty(d)` followed immediately by `get_duty()` returns `d`" (R160), with any number of TICKs between and
with the preload bit on or off. -/
def Obligations.SetDutyThenGetDutyReturnsIt : Prop :=
  ∀ (ch : Channel) (d : Half) (n : Nat) (s : State), channelAdmitted ch s →
    ∃ t u, exec (.setDuty ch d) s = .next t ∧ exec (.getDuty ch) (tickN n t) = .next u ∧
      responses u = (0x0#4 ++ d) :: 0x00000#20 :: responses s

/-- Idempotence and convergence (R159): ENABLE twice, DISABLE twice, and ENABLE, DISABLE, ENABLE leave the registers
as the first of them did. -/
def Obligations.EnableAndDisableConverge : Prop :=
  ∀ (ch : Channel) (s : State), channelAdmitted ch s →
    ∃ e ee ed edd ede, exec (.enable ch) s = .next e ∧ exec (.enable ch) e = .next ee ∧
      exec (.disable ch) e = .next ed ∧ exec (.disable ch) ed = .next edd ∧ exec (.enable ch) ed = .next ede ∧
      (ee.ocpe = e.ocpe ∧ ee.ocm = e.ocm ∧ ee.cce = e.cce) ∧
      (edd.ocpe = ed.ocpe ∧ edd.ocm = ed.ocm ∧ edd.cce = ed.cce) ∧
      (ede.ocpe = e.ocpe ∧ ede.ocm = e.ocm ∧ ede.cce = e.cce) ∧ ede.cce.get ch = true

/-- Sibling preservation (R162): a command for one channel changes no field of another. The active compare value of
another channel can change by an update event only, which loads its own `CCR`. -/
def Obligations.CommandsKeepTheOtherChannels : Prop :=
  ∀ (i : Instr) (ch c : Channel) (s t : State), commandChannel i = some ch → c ≠ ch → exec i s = .next t →
    t.ocpe.get c = s.ocpe.get c ∧ t.ocm.get c = s.ocm.get c ∧ t.cce.get c = s.cce.get c ∧
    t.ccr.get c = s.ccr.get c ∧ t.chstate.get c = s.chstate.get c ∧
    (t.ccra.get c = s.ccra.get c ∨ t.ccra.get c = s.ccr.get c)

/-- Commands for different channels commute (R73), at field level and in their responses. -/
def Obligations.CommandsForDifferentChannelsCommute : Prop :=
  ∀ (i j : Instr) (c d : Channel) (s : State), channelCommand i = some c → channelCommand j = some d → c ≠ d →
    channelAdmitted c s → channelAdmitted d s →
    ∃ t u t' u' ri rj, exec i s = .next t ∧ exec j t = .next u ∧ exec j s = .next t' ∧ exec i t' = .next u' ∧
      withoutCounter { u with outputs := [] } = withoutCounter { u' with outputs := [] } ∧
      responses u = rj :: ri :: responses s ∧ responses u' = ri :: rj :: responses s

/-- No channel command changes `CHSTATE`, `INITIALIZED`, `CLKEN`, `CR1`, `PSC` or `ARR`, none emits an event, and `CNT`
and `PSCCNT` change by the TICKs of the schedule only (R164). -/
def Obligations.ChannelCommandsKeepLifecycleAndPeriod : Prop :=
  ∀ (i : Instr) (ch : Channel) (s t : State), channelCommand i = some ch → exec i s = .next t →
    t.chstate = s.chstate ∧ t.initialized = s.initialized ∧ t.clken = s.clken ∧ t.cen = s.cen ∧
    t.psc = s.psc ∧ t.arr = s.arr ∧ t.pinmux = s.pinmux ∧ t.halt = s.halt ∧
    (∃ w, t.outputs = .response w :: s.outputs) ∧
    (∃ k ≤ 7, t.cnt = (tickN (scheduledTicks k s) s).cnt ∧ t.psccnt = (tickN (scheduledTicks k s) s).psccnt)

/-- After INIT the frequency is fixed until hardware reset (R133, R294): no step changes `PSC`, `ARR`, `CEN` or
`CLKEN`. -/
def Obligations.FrequencyIsFixedAfterInit : Prop :=
  ∀ s t : State, s.initialized = true → (∀ rest, s.inputs ≠ .hardwareReset :: rest) → step s = .next t →
    t.psc = s.psc ∧ t.arr = s.arr ∧ t.cen = s.cen ∧ t.clken = s.clken

/-- Every command leaves `IRQMASK` as it found it (R31, R34 (g)), and only ENABLE and DISABLE use the critical section
(R163): the others leave `IRQSAVE` too. -/
def Obligations.CommandsRestoreTheInterruptMask : Prop :=
  ∀ (i : Instr) (s t : State), exec i s = .next t →
    t.irqMask = s.irqMask ∧ (t.irqSave = s.irqSave ∨ ((∃ ch, i = .enable ch ∨ i = .disable ch) ∧ t.irqSave = s.irqMask))

/-- No handler observes a half-configured channel (R69, R247): at every instant of a command at which a handler could
start (`IRQMASK = 0`) the mode and enable fields are all as before the command or all as after it. -/
def Obligations.NoHandlerSeesAHalfConfiguredChannel : Prop :=
  ∀ (i : Instr) (s t u : State), exec i s = .next t → u ∈ instants i s → u.irqMask = false →
    (u.ocpe = s.ocpe ∧ u.ocm = s.ocm ∧ u.cce = s.cce) ∨ (u.ocpe = t.ocpe ∧ u.ocm = t.ocm ∧ u.cce = t.cce)

/-! ### ASSIGN (spec/42_assign.md) -/

/-- A successful ASSIGN (R190, R194): one `AF_SELECT` with the selector of `BIND`, then the channel is Assigned; no timer
register is touched. -/
def Obligations.AssignRoutesThePinAndBindsTheChannel : Prop :=
  ∀ (ch : Channel) (pin : PinId) (sel : AfSel) (s : State), s.halt = false → s.initialized = true →
    s.chstate.get ch = .unassigned → bindLookup s.cfg pin ch = some sel →
    (∀ c, s.chstate.get c ≠ .assigned pin) →
    exec (.assign ch pin) s = .next (tickN (scheduledTicks 3 s)
      { s with pinmux := pinmuxSet s.pinmux pin sel, chstate := s.chstate.set ch (.assigned pin),
               schedule := s.schedule.drop 3,
               outputs := .response 0x00000#20 :: .afSelect pin sel :: s.outputs })

/-- The five refusals of ASSIGN, tested in the order shown (R190, R244). -/
def Obligations.AssignRefusalsInOrder : Prop :=
  ∀ (ch : Channel) (pin : PinId) (s : State),
    (s.halt = true → exec (.assign ch pin) s = .next (refusedWith 0xA#4 s)) ∧
    (s.halt = false → s.initialized = false → exec (.assign ch pin) s = .next (refusedWith 0x4#4 s)) ∧
    (∀ p, s.halt = false → s.initialized = true → s.chstate.get ch = .assigned p →
      exec (.assign ch pin) s = .next (refusedWith 0x7#4 s)) ∧
    (s.halt = false → s.initialized = true → s.chstate.get ch = .unassigned → bindLookup s.cfg pin ch = none →
      exec (.assign ch pin) s = .next (refusedWith 0x8#4 s)) ∧
    (∀ c sel, s.halt = false → s.initialized = true → s.chstate.get ch = .unassigned →
      bindLookup s.cfg pin ch = some sel → s.chstate.get c = .assigned pin →
      exec (.assign ch pin) s = .next (refusedWith 0x9#4 s))

/-- `PINMUX` is a partial function with one entry written (R32): the written pin reads as the selector, every other
pin as before, and the record stays canonical. -/
def Obligations.PinRecordReadsAsWritten : Prop :=
  ∀ (l : List (PinId × AfSel)) (pin q : PinId) (sel : AfSel),
    pinmuxGet (pinmuxSet l pin sel) q = (if q = pin then some sel else pinmuxGet l q) ∧
    (pinmuxWf l = true → pinmuxWf (pinmuxSet l pin sel) = true)

/-- Several instances (R73, R193): a step of one leaves every other as it is; an ASSIGN of a pin another instance owns is
refused with `PinInUse` (the model's reading, log 26, DEDUCED: R96 gives this code for a pin of the same instance); and
the step reads nothing of the others but which pins they own, so with none owned elsewhere it is the step of the
instance by itself. -/
def Obligations.InstancesShareOnlyTheOwnedPins : Prop :=
  (∀ (k j : Nat) (sys sys' : System), systemStep k sys = some (.next sys') → j ≠ k →
    sys'.timers[j]? = sys.timers[j]?) ∧
  (∀ (k j : Nat) (sys : System) (s u : State) (cw : CommandWord) (rest : List Input) (ch c : Channel) (pin : PinId)
      (sel : AfSel), j ≠ k → sys.timers[k]? = some s → sys.timers[j]? = some u →
    s.inputs = .command cw :: rest → decode cw = .ok (.assign ch pin) → s.halt = false → s.initialized = true →
    s.chstate.get ch = .unassigned → bindLookup s.cfg pin ch = some sel → u.chstate.get c = .assigned pin →
    systemStep k sys = some (.next ⟨sys.timers.set k (refusedWith 0x9#4 { s with inputs := rest })⟩)) ∧
  (∀ (k : Nat) (sys₁ sys₂ sys₁' : System), sys₁.timers[k]? = sys₂.timers[k]? →
    (∀ pin, ownedElsewhere sys₁ k pin = ownedElsewhere sys₂ k pin) → systemStep k sys₁ = some (.next sys₁') →
    ∃ sys₂', systemStep k sys₂ = some (.next sys₂') ∧ sys₂'.timers[k]? = sys₁'.timers[k]?) ∧
  (∀ (k : Nat) (sys : System) (s : State), sys.timers[k]? = some s → (∀ pin, ownedElsewhere sys k pin = false) →
    ∃ t, step s = .next t ∧ systemStep k sys = some (.next ⟨sys.timers.set k t⟩))

/-! ### The counter and the outputs (spec/43_counter_output.md; D19, D20, D21) -/

/-- TICK (R210, R211, R212): no step without both enables; the prescaler divides by `PSC + 1`; the counter counts to
`ARR` and wraps with the update event. -/
def Obligations.TickStepsPrescalerAndCounter : Prop :=
  ∀ s : State,
    ((s.clken = false ∨ s.cen = false) → tick s = s) ∧
    (s.clken = true → s.cen = true → s.psccnt.toNat < s.psc.toNat → tick s = { s with psccnt := s.psccnt + 1#16 }) ∧
    (s.clken = true → s.cen = true → s.psc.toNat ≤ s.psccnt.toNat → s.cnt.toNat < s.arr.toNat →
      tick s = { s with psccnt := 0#16, cnt := s.cnt + 1#16 }) ∧
    (s.clken = true → s.cen = true → s.psc.toNat ≤ s.psccnt.toNat → s.arr.toNat ≤ s.cnt.toNat →
      tick s = { s with psccnt := 0#16, cnt := 0#16, ccra := s.ccr })

/-- The counter agent writes nothing but `CNT`, `PSCCNT` and `CCRA`, and emits nothing (R214). -/
def Obligations.TicksWriteOnlyTheCounter : Prop :=
  ∀ (n : Nat) (s : State),
    tickN n s = { s with cnt := (tickN n s).cnt, psccnt := (tickN n s).psccnt, ccra := (tickN n s).ccra } ∧
    (∀ ch, (tickN n s).ccra.get ch = s.ccra.get ch ∨ (tickN n s).ccra.get ch = s.ccr.get ch)

/-- Where the counter stands after `n` TICKs from the start of a period (R211, R212, R216): one period is
`(PSC + 1) * (ARR + 1)` TICKs.It follows R211 and R212; silicon that buffers the prescaler may differ in the
very first period (R219, log 4). -/
def Obligations.CounterPositionAfterTicks : Prop :=
  ∀ (n : Nat) (s : State), s.clken = true → s.cen = true → s.cnt = 0#16 → s.psccnt = 0#16 →
    (tickN n s).psccnt.toNat = n % (s.psc.toNat + 1) ∧
    (tickN n s).cnt.toNat = (n / (s.psc.toNat + 1)) % (s.arr.toNat + 1) ∧
    (tickN n s).ccra =
      if n < (s.psc.toNat + 1) * (s.arr.toNat + 1) then s.ccra else s.ccr

/-- Duty (R216): over one period an enabled channel is high for `min(d, ARR + 1)` counter ticks, each `PSC + 1` TICKs
long.It follows R211 and R212; silicon that buffers the prescaler may differ in the very first period (R219,
log 4). -/
def Obligations.EnabledOutputIsHighForItsDuty : Prop :=
  ∀ (ch : Channel) (s : State), s.clken = true → s.cen = true → s.cnt = 0#16 → s.psccnt = 0#16 →
    s.cce.get ch = true → s.ocm.get ch = 0b110#3 →
    ((List.range ((s.psc.toNat + 1) * (s.arr.toNat + 1))).countP fun n => oc ch (tickN n s)) =
      (s.psc.toNat + 1) * min (s.ccra.get ch).toNat (s.arr.toNat + 1)

/-- A duty written to an enabled channel waits for the period boundary (R213, R286; D20), at whatever point of a period
and with whatever TICKs inside the command (log 12) it is written: `u` is the block when the store happens, and with the
preload bit set `CCRA` stays as it is from then until the update event, which loads it. Where that event falls follows
R211 and R212; silicon that buffers the prescaler may differ in the very first period (R219, log 4). The counters'
ranges are a clause of the invariant (`RecordInv`). -/
def Obligations.PreloadedDutyLandsAtTheUpdateEvent : Prop :=
  ∀ (ch : Channel) (d : Half) (s : State), channelAdmitted ch s → s.ocpe.get ch = true →
    s.clken = true → s.cen = true → s.cnt ≤ s.arr → s.psccnt ≤ s.psc →
    ∃ u t, u = tickN (scheduledTicks 1 s)
        { s with schedule := s.schedule.drop 2, outputs := .response 0x00000#20 :: s.outputs } ∧
      exec (.setDuty ch d) s = .next t ∧
      ∀ n, (((s.schedule.drop 1).take 1).sum + n < ticksToUpdate u → (tickN n t).ccra = u.ccra) ∧
        (ticksToUpdate u ≤ ((s.schedule.drop 1).take 1).sum + n → (tickN n t).ccra = s.ccr.set ch d)

/-- The output function where R215 specifies it. The unspecified case is a free value (log 16) and nothing is said of
it. -/
def Obligations.OutputFollowsTheComparison : Prop :=
  ∀ (ch : Channel) (s : State),
    (s.cce.get ch = true → s.ocm.get ch = 0b110#3 →
      (oc ch s = true ↔ s.cnt.toNat < (s.ccra.get ch).toNat)) ∧
    (s.cce.get ch = false → oc ch s = false)

/-- An output that is 1 always has a pin (R215, R194): the channel is Assigned to a pin the multiplexer routes by the
binding table, and that pin carries this channel. -/
def Obligations.HighOutputHasARoutedPin : Prop :=
  ∀ (ch : Channel) (s : State), BlockInv s → oc ch s = true →
    ∃ p sel, s.chstate.get ch = .assigned p ∧ pinDriver s p = some ch ∧ bindLookup s.cfg p ch = some sel ∧
      pinmuxGet s.pinmux p = some sel

/-- TICKs are invisible to requesters (R71): two states that differ at most in `CNT`, `PSCCNT`, `CCRA` and the schedule
of TICKs step to states that differ at most in those, responses and events included; and TICKs change nothing else. -/
def Obligations.TicksAreInvisibleToRequesters : Prop :=
  (∀ (n : Nat) (s : State), withoutCounter (tickN n s) = withoutCounter s) ∧
  (∀ s u : State, withoutCounter s = withoutCounter u →
    ∃ s' u', step s = .next s' ∧ step u = .next u' ∧ withoutCounter s' = withoutCounter u')

/-! ### The register space (spec/20_memory.md; D4, D5, D6) -/

/-- The register map (R61, R62, R33): each register's word at `BASE` plus its offset, reserved words read as zero and
ignore writes, and no other address is a word of the block (R64; that it faults is the model's choice, log 21). -/
def Obligations.BusReachesExactlyTheRegisterMap : Prop :=
  ∀ (s : State) (v : Word),
    (∀ r : Reg, busRead (s.cfg.base + r.offset) s = .ok (readReg r s) ∧
      busWrite (s.cfg.base + r.offset) v s = .ok (writeReg r v s)) ∧
    (∀ off ∈ [0x04, 0x08, 0x0C, 0x10, 0x14, 0x30], busRead (s.cfg.base + off) s = .ok 0#32 ∧
      busWrite (s.cfg.base + off) v s = .ok s) ∧
    (∀ addr, (addr < s.cfg.base ∨ s.cfg.base + 0x43 < addr ∨ addr % 4 ≠ 0) →
      busRead addr s = .error (.noSuchAddress addr) ∧ busWrite addr v s = .error (.noSuchAddress addr))

/-- A register word reads as its implemented bits were last written, every reserved bit zero, and a write to one
register changes no other register's word (R62, R33). -/
def Obligations.RegisterWordReadsAsWritten : Prop :=
  ∀ (r r' : Reg) (v : Word) (s : State),
    readReg r (writeReg r v s) = v &&& r.implemented ∧ readReg r s &&& ~~~r.implemented = 0#32 ∧
    (r' ≠ r → readReg r' (writeReg r v s) = readReg r' s)

/-- The frame of the register space: a command changes no word of the block but those it stores to, computed from the
micro-steps its meaning runs, and `CNT`, which is the counter's (R61, R71). -/
def Obligations.CommandsStoreOnlyToTheirRegisters : Prop :=
  ∀ (i : Instr) (s t : State) (addr : Nat), exec i s = .next t → addr ∉ storedAddresses i s →
    addr ≠ s.cfg.base + Reg.cnt.offset → busRead addr t = busRead addr s

/-! ### Invariants (R34) -/

/-- The invariant holds after reset; the empty pin record of reset is the model's choice (log 15). -/
def Obligations.InvHoldsAfterReset : Prop := BlockInv State.reset

/-- Every step keeps the invariant (R34 at command boundaries, and the record of log 15 and R194 beside it). -/
def Obligations.EveryStepKeepsTheInvariant : Prop :=
  ∀ s t : State, BlockInv s → step s = .next t → BlockInv t

/-- R34 (a), (b), (e) hold at every instant of a command, between its micro-steps and at every TICK (R153, C10); the
last instant is the state the command leaves. -/
def Obligations.InstantsKeepTheInvariant : Prop :=
  ∀ (i : Instr) (s t : State), BlockInv s → exec i s = .next t →
    (∀ u ∈ instants i s, InstantInv u) ∧ (instants i s).getLast? = some t

/-! ### ASSIGN beside commands for other channels (spec/42_assign.md R196) -/

/-- ASSIGN commutes with every command for another channel (R196), another ASSIGN of another pin included, whatever
their answers: the same responses, the same events up to order, and the same state but for the counter. `FCODE` holds
the first non-OK status (R23), so it too is the same unless both are refused from `FCODE = 0`. Two ASSIGNs naming the
same pin do not commute: the first wins, the second is refused. -/
def Obligations.AssignCommutesWithOtherChannels : Prop :=
  (∀ (j : Instr) (c d : Channel) (pin : PinId) (s : State), commandChannel j = some d → c ≠ d →
    j ≠ .assign d pin →
    ∃ t u t' u' ri rj, exec (.assign c pin) s = .next t ∧ exec j t = .next u ∧
      exec j s = .next t' ∧ exec (.assign c pin) t' = .next u' ∧
      withoutCounter { u with outputs := [], fcode := 0#4 } = withoutCounter { u' with outputs := [], fcode := 0#4 } ∧
      (s.fcode ≠ 0#4 ∨ ri.extractLsb' 16 4 = 0x0#4 ∨ rj.extractLsb' 16 4 = 0x0#4 → u.fcode = u'.fcode) ∧
      responses u = rj :: ri :: responses s ∧ responses u' = ri :: rj :: responses s ∧ u.outputs.Perm u'.outputs) ∧
  (∀ (c d : Channel) (pin : PinId) (s : State), c ≠ d → s.halt = false → s.initialized = true →
    s.chstate.get c = .unassigned → s.chstate.get d = .unassigned → (bindLookup s.cfg pin c).isSome = true →
    (bindLookup s.cfg pin d).isSome = true → (∀ e, s.chstate.get e ≠ .assigned pin) →
    ∃ t, exec (.assign c pin) s = .next t ∧ t.chstate.get c = .assigned pin ∧
      exec (.assign d pin) t = .next (refusedWith 0x9#4 t))
end

