-- ==== Sys2Proof/Laws/State.lean ====
section
/-! SUPPORT. One lemma per field per update: what each named operation leaves in each field of the state. -/

namespace Sys2Proof.Machine

/-! ### Per-channel values -/

@[simp] theorem ByChannel.get_set_same {α : Type} (v : ByChannel α) (ch : Channel) (a : α) :
    (v.set ch a).get ch = a := by cases ch <;> rfl

theorem ByChannel.get_set_other {α : Type} (v : ByChannel α) {ch c : Channel} (a : α) (h : c ≠ ch) :
    (v.set ch a).get c = v.get c := by cases ch <;> cases c <;> first | rfl | exact absurd rfl h

theorem ByChannel.get_set {α : Type} (v : ByChannel α) (ch c : Channel) (a : α) :
    (v.set ch a).get c = if c = ch then a else v.get c := by
  cases ch <;> cases c <;> rfl

@[simp] theorem ByChannel.get_const {α : Type} (a : α) (c : Channel) :
    (ByChannel.mk a a a a).get c = a := by cases c <;> rfl

theorem ByChannel.ext_get {α : Type} {v w : ByChannel α} (h : ∀ c, v.get c = w.get c) : v = w := by
  cases v; cases w
  have h1 := h .c1; have h2 := h .c2; have h3 := h .c3; have h4 := h .c4
  simp only [ByChannel.get] at h1 h2 h3 h4
  simp [h1, h2, h3, h4]

@[simp] theorem ByChannel.set_set {α : Type} (v : ByChannel α) (ch : Channel) (a b : α) :
    (v.set ch a).set ch b = v.set ch b := by cases ch <;> rfl

theorem ByChannel.set_comm {α : Type} (v : ByChannel α) {ch c : Channel} (a b : α) (h : c ≠ ch) :
    (v.set ch a).set c b = (v.set c b).set ch a := by
  cases ch <;> cases c <;> first | rfl | exact absurd rfl h

@[simp] theorem ByChannel.set_get {α : Type} (v : ByChannel α) (ch : Channel) : v.set ch (v.get ch) = v := by
  cases ch <;> rfl

/-! ### `csEnter` -/

@[simp] theorem csEnter_cfg (s : State) : (csEnter s).cfg = s.cfg := rfl
@[simp] theorem csEnter_psc (s : State) : (csEnter s).psc = s.psc := rfl
@[simp] theorem csEnter_arr (s : State) : (csEnter s).arr = s.arr := rfl
@[simp] theorem csEnter_ccr (s : State) : (csEnter s).ccr = s.ccr := rfl
@[simp] theorem csEnter_cen (s : State) : (csEnter s).cen = s.cen := rfl
@[simp] theorem csEnter_ocpe (s : State) : (csEnter s).ocpe = s.ocpe := rfl
@[simp] theorem csEnter_ocm (s : State) : (csEnter s).ocm = s.ocm := rfl
@[simp] theorem csEnter_cce (s : State) : (csEnter s).cce = s.cce := rfl
@[simp] theorem csEnter_cnt (s : State) : (csEnter s).cnt = s.cnt := rfl
@[simp] theorem csEnter_psccnt (s : State) : (csEnter s).psccnt = s.psccnt := rfl
@[simp] theorem csEnter_ccra (s : State) : (csEnter s).ccra = s.ccra := rfl
@[simp] theorem csEnter_clken (s : State) : (csEnter s).clken = s.clken := rfl
@[simp] theorem csEnter_initialized (s : State) : (csEnter s).initialized = s.initialized := rfl
@[simp] theorem csEnter_chstate (s : State) : (csEnter s).chstate = s.chstate := rfl
@[simp] theorem csEnter_irqMask (s : State) : (csEnter s).irqMask = true := rfl
@[simp] theorem csEnter_irqSave (s : State) : (csEnter s).irqSave = s.irqMask := rfl
@[simp] theorem csEnter_fcode (s : State) : (csEnter s).fcode = s.fcode := rfl
@[simp] theorem csEnter_halt (s : State) : (csEnter s).halt = s.halt := rfl
@[simp] theorem csEnter_pinmux (s : State) : (csEnter s).pinmux = s.pinmux := rfl
@[simp] theorem csEnter_inputs (s : State) : (csEnter s).inputs = s.inputs := rfl
@[simp] theorem csEnter_schedule (s : State) : (csEnter s).schedule = s.schedule := rfl
@[simp] theorem csEnter_outputs (s : State) : (csEnter s).outputs = s.outputs := rfl

/-! ### `csExit` -/

@[simp] theorem csExit_cfg (s : State) : (csExit s).cfg = s.cfg := rfl
@[simp] theorem csExit_psc (s : State) : (csExit s).psc = s.psc := rfl
@[simp] theorem csExit_arr (s : State) : (csExit s).arr = s.arr := rfl
@[simp] theorem csExit_ccr (s : State) : (csExit s).ccr = s.ccr := rfl
@[simp] theorem csExit_cen (s : State) : (csExit s).cen = s.cen := rfl
@[simp] theorem csExit_ocpe (s : State) : (csExit s).ocpe = s.ocpe := rfl
@[simp] theorem csExit_ocm (s : State) : (csExit s).ocm = s.ocm := rfl
@[simp] theorem csExit_cce (s : State) : (csExit s).cce = s.cce := rfl
@[simp] theorem csExit_cnt (s : State) : (csExit s).cnt = s.cnt := rfl
@[simp] theorem csExit_psccnt (s : State) : (csExit s).psccnt = s.psccnt := rfl
@[simp] theorem csExit_ccra (s : State) : (csExit s).ccra = s.ccra := rfl
@[simp] theorem csExit_clken (s : State) : (csExit s).clken = s.clken := rfl
@[simp] theorem csExit_initialized (s : State) : (csExit s).initialized = s.initialized := rfl
@[simp] theorem csExit_chstate (s : State) : (csExit s).chstate = s.chstate := rfl
@[simp] theorem csExit_irqMask (s : State) : (csExit s).irqMask = s.irqSave := rfl
@[simp] theorem csExit_irqSave (s : State) : (csExit s).irqSave = s.irqSave := rfl
@[simp] theorem csExit_fcode (s : State) : (csExit s).fcode = s.fcode := rfl
@[simp] theorem csExit_halt (s : State) : (csExit s).halt = s.halt := rfl
@[simp] theorem csExit_pinmux (s : State) : (csExit s).pinmux = s.pinmux := rfl
@[simp] theorem csExit_inputs (s : State) : (csExit s).inputs = s.inputs := rfl
@[simp] theorem csExit_schedule (s : State) : (csExit s).schedule = s.schedule := rfl
@[simp] theorem csExit_outputs (s : State) : (csExit s).outputs = s.outputs := rfl

/-! ### `emit` -/

@[simp] theorem emit_cfg (o : Output) (s : State) : (emit o s).cfg = s.cfg := rfl
@[simp] theorem emit_psc (o : Output) (s : State) : (emit o s).psc = s.psc := rfl
@[simp] theorem emit_arr (o : Output) (s : State) : (emit o s).arr = s.arr := rfl
@[simp] theorem emit_ccr (o : Output) (s : State) : (emit o s).ccr = s.ccr := rfl
@[simp] theorem emit_cen (o : Output) (s : State) : (emit o s).cen = s.cen := rfl
@[simp] theorem emit_ocpe (o : Output) (s : State) : (emit o s).ocpe = s.ocpe := rfl
@[simp] theorem emit_ocm (o : Output) (s : State) : (emit o s).ocm = s.ocm := rfl
@[simp] theorem emit_cce (o : Output) (s : State) : (emit o s).cce = s.cce := rfl
@[simp] theorem emit_cnt (o : Output) (s : State) : (emit o s).cnt = s.cnt := rfl
@[simp] theorem emit_psccnt (o : Output) (s : State) : (emit o s).psccnt = s.psccnt := rfl
@[simp] theorem emit_ccra (o : Output) (s : State) : (emit o s).ccra = s.ccra := rfl
@[simp] theorem emit_clken (o : Output) (s : State) : (emit o s).clken = s.clken := rfl
@[simp] theorem emit_initialized (o : Output) (s : State) : (emit o s).initialized = s.initialized := rfl
@[simp] theorem emit_chstate (o : Output) (s : State) : (emit o s).chstate = s.chstate := rfl
@[simp] theorem emit_irqMask (o : Output) (s : State) : (emit o s).irqMask = s.irqMask := rfl
@[simp] theorem emit_irqSave (o : Output) (s : State) : (emit o s).irqSave = s.irqSave := rfl
@[simp] theorem emit_fcode (o : Output) (s : State) : (emit o s).fcode = s.fcode := rfl
@[simp] theorem emit_halt (o : Output) (s : State) : (emit o s).halt = s.halt := rfl
@[simp] theorem emit_pinmux (o : Output) (s : State) : (emit o s).pinmux = s.pinmux := rfl
@[simp] theorem emit_inputs (o : Output) (s : State) : (emit o s).inputs = s.inputs := rfl
@[simp] theorem emit_schedule (o : Output) (s : State) : (emit o s).schedule = s.schedule := rfl
@[simp] theorem emit_outputs (o : Output) (s : State) : (emit o s).outputs = o :: s.outputs := rfl

/-! ### `respond` -/

@[simp] theorem respond_cfg (st : Status) (d : Half) (s : State) : (respond st d s).cfg = s.cfg := rfl
@[simp] theorem respond_psc (st : Status) (d : Half) (s : State) : (respond st d s).psc = s.psc := rfl
@[simp] theorem respond_arr (st : Status) (d : Half) (s : State) : (respond st d s).arr = s.arr := rfl
@[simp] theorem respond_ccr (st : Status) (d : Half) (s : State) : (respond st d s).ccr = s.ccr := rfl
@[simp] theorem respond_cen (st : Status) (d : Half) (s : State) : (respond st d s).cen = s.cen := rfl
@[simp] theorem respond_ocpe (st : Status) (d : Half) (s : State) : (respond st d s).ocpe = s.ocpe := rfl
@[simp] theorem respond_ocm (st : Status) (d : Half) (s : State) : (respond st d s).ocm = s.ocm := rfl
@[simp] theorem respond_cce (st : Status) (d : Half) (s : State) : (respond st d s).cce = s.cce := rfl
@[simp] theorem respond_cnt (st : Status) (d : Half) (s : State) : (respond st d s).cnt = s.cnt := rfl
@[simp] theorem respond_psccnt (st : Status) (d : Half) (s : State) : (respond st d s).psccnt = s.psccnt := rfl
@[simp] theorem respond_ccra (st : Status) (d : Half) (s : State) : (respond st d s).ccra = s.ccra := rfl
@[simp] theorem respond_clken (st : Status) (d : Half) (s : State) : (respond st d s).clken = s.clken := rfl
@[simp] theorem respond_initialized (st : Status) (d : Half) (s : State) : (respond st d s).initialized = s.initialized := rfl
@[simp] theorem respond_chstate (st : Status) (d : Half) (s : State) : (respond st d s).chstate = s.chstate := rfl
@[simp] theorem respond_irqMask (st : Status) (d : Half) (s : State) : (respond st d s).irqMask = s.irqMask := rfl
@[simp] theorem respond_irqSave (st : Status) (d : Half) (s : State) : (respond st d s).irqSave = s.irqSave := rfl
@[simp] theorem respond_fcode (st : Status) (d : Half) (s : State) : (respond st d s).fcode = s.fcode := rfl
@[simp] theorem respond_halt (st : Status) (d : Half) (s : State) : (respond st d s).halt = s.halt := rfl
@[simp] theorem respond_pinmux (st : Status) (d : Half) (s : State) : (respond st d s).pinmux = s.pinmux := rfl
@[simp] theorem respond_inputs (st : Status) (d : Half) (s : State) : (respond st d s).inputs = s.inputs := rfl
@[simp] theorem respond_schedule (st : Status) (d : Half) (s : State) : (respond st d s).schedule = s.schedule := rfl
@[simp] theorem respond_outputs (st : Status) (d : Half) (s : State) : (respond st d s).outputs = .response (responseWord st d) :: s.outputs := rfl

/-! ### `refuse` -/

@[simp] theorem refuse_cfg (st : Status) (s : State) : (refuse st s).cfg = s.cfg := rfl
@[simp] theorem refuse_psc (st : Status) (s : State) : (refuse st s).psc = s.psc := rfl
@[simp] theorem refuse_arr (st : Status) (s : State) : (refuse st s).arr = s.arr := rfl
@[simp] theorem refuse_ccr (st : Status) (s : State) : (refuse st s).ccr = s.ccr := rfl
@[simp] theorem refuse_cen (st : Status) (s : State) : (refuse st s).cen = s.cen := rfl
@[simp] theorem refuse_ocpe (st : Status) (s : State) : (refuse st s).ocpe = s.ocpe := rfl
@[simp] theorem refuse_ocm (st : Status) (s : State) : (refuse st s).ocm = s.ocm := rfl
@[simp] theorem refuse_cce (st : Status) (s : State) : (refuse st s).cce = s.cce := rfl
@[simp] theorem refuse_cnt (st : Status) (s : State) : (refuse st s).cnt = s.cnt := rfl
@[simp] theorem refuse_psccnt (st : Status) (s : State) : (refuse st s).psccnt = s.psccnt := rfl
@[simp] theorem refuse_ccra (st : Status) (s : State) : (refuse st s).ccra = s.ccra := rfl
@[simp] theorem refuse_clken (st : Status) (s : State) : (refuse st s).clken = s.clken := rfl
@[simp] theorem refuse_initialized (st : Status) (s : State) : (refuse st s).initialized = s.initialized := rfl
@[simp] theorem refuse_chstate (st : Status) (s : State) : (refuse st s).chstate = s.chstate := rfl
@[simp] theorem refuse_irqMask (st : Status) (s : State) : (refuse st s).irqMask = s.irqMask := rfl
@[simp] theorem refuse_irqSave (st : Status) (s : State) : (refuse st s).irqSave = s.irqSave := rfl
@[simp] theorem refuse_fcode (st : Status) (s : State) : (refuse st s).fcode = latchCode st s.fcode := rfl
@[simp] theorem refuse_halt (st : Status) (s : State) : (refuse st s).halt = s.halt := rfl
@[simp] theorem refuse_pinmux (st : Status) (s : State) : (refuse st s).pinmux = s.pinmux := rfl
@[simp] theorem refuse_inputs (st : Status) (s : State) : (refuse st s).inputs = s.inputs := rfl
@[simp] theorem refuse_schedule (st : Status) (s : State) : (refuse st s).schedule = s.schedule := rfl
@[simp] theorem refuse_outputs (st : Status) (s : State) : (refuse st s).outputs = .response (responseWord st 0#16) :: s.outputs := rfl

/-! ### `constructionFault` -/

@[simp] theorem constructionFault_cfg (st : Status) (s : State) : (constructionFault st s).cfg = s.cfg := rfl
@[simp] theorem constructionFault_psc (st : Status) (s : State) : (constructionFault st s).psc = s.psc := rfl
@[simp] theorem constructionFault_arr (st : Status) (s : State) : (constructionFault st s).arr = s.arr := rfl
@[simp] theorem constructionFault_ccr (st : Status) (s : State) : (constructionFault st s).ccr = s.ccr := rfl
@[simp] theorem constructionFault_cen (st : Status) (s : State) : (constructionFault st s).cen = s.cen := rfl
@[simp] theorem constructionFault_ocpe (st : Status) (s : State) : (constructionFault st s).ocpe = s.ocpe := rfl
@[simp] theorem constructionFault_ocm (st : Status) (s : State) : (constructionFault st s).ocm = s.ocm := rfl
@[simp] theorem constructionFault_cce (st : Status) (s : State) : (constructionFault st s).cce = s.cce := rfl
@[simp] theorem constructionFault_cnt (st : Status) (s : State) : (constructionFault st s).cnt = s.cnt := rfl
@[simp] theorem constructionFault_psccnt (st : Status) (s : State) : (constructionFault st s).psccnt = s.psccnt := rfl
@[simp] theorem constructionFault_ccra (st : Status) (s : State) : (constructionFault st s).ccra = s.ccra := rfl
@[simp] theorem constructionFault_clken (st : Status) (s : State) : (constructionFault st s).clken = s.clken := rfl
@[simp] theorem constructionFault_initialized (st : Status) (s : State) : (constructionFault st s).initialized = s.initialized := rfl
@[simp] theorem constructionFault_chstate (st : Status) (s : State) : (constructionFault st s).chstate = s.chstate := rfl
@[simp] theorem constructionFault_irqMask (st : Status) (s : State) : (constructionFault st s).irqMask = s.irqMask := rfl
@[simp] theorem constructionFault_irqSave (st : Status) (s : State) : (constructionFault st s).irqSave = s.irqSave := rfl
@[simp] theorem constructionFault_fcode (st : Status) (s : State) : (constructionFault st s).fcode = latchCode st s.fcode := rfl
@[simp] theorem constructionFault_halt (st : Status) (s : State) : (constructionFault st s).halt = true := rfl
@[simp] theorem constructionFault_pinmux (st : Status) (s : State) : (constructionFault st s).pinmux = s.pinmux := rfl
@[simp] theorem constructionFault_inputs (st : Status) (s : State) : (constructionFault st s).inputs = s.inputs := rfl
@[simp] theorem constructionFault_schedule (st : Status) (s : State) : (constructionFault st s).schedule = s.schedule := rfl
@[simp] theorem constructionFault_outputs (st : Status) (s : State) : (constructionFault st s).outputs = .response (responseWord st 0#16) :: s.outputs := rfl

/-! ### `peripheralReset` -/

@[simp] theorem peripheralReset_cfg (s : State) : (peripheralReset s).cfg = s.cfg := rfl
@[simp] theorem peripheralReset_psc (s : State) : (peripheralReset s).psc = 0#16 := rfl
@[simp] theorem peripheralReset_arr (s : State) : (peripheralReset s).arr = 0xFFFF#16 := rfl
@[simp] theorem peripheralReset_ccr (s : State) : (peripheralReset s).ccr = ⟨0#16, 0#16, 0#16, 0#16⟩ := rfl
@[simp] theorem peripheralReset_cen (s : State) : (peripheralReset s).cen = false := rfl
@[simp] theorem peripheralReset_ocpe (s : State) : (peripheralReset s).ocpe = ⟨false, false, false, false⟩ := rfl
@[simp] theorem peripheralReset_ocm (s : State) : (peripheralReset s).ocm = ⟨0#3, 0#3, 0#3, 0#3⟩ := rfl
@[simp] theorem peripheralReset_cce (s : State) : (peripheralReset s).cce = ⟨false, false, false, false⟩ := rfl
@[simp] theorem peripheralReset_cnt (s : State) : (peripheralReset s).cnt = 0#16 := rfl
@[simp] theorem peripheralReset_psccnt (s : State) : (peripheralReset s).psccnt = 0#16 := rfl
@[simp] theorem peripheralReset_ccra (s : State) : (peripheralReset s).ccra = ⟨0#16, 0#16, 0#16, 0#16⟩ := rfl
@[simp] theorem peripheralReset_clken (s : State) : (peripheralReset s).clken = s.clken := rfl
@[simp] theorem peripheralReset_initialized (s : State) : (peripheralReset s).initialized = s.initialized := rfl
@[simp] theorem peripheralReset_chstate (s : State) : (peripheralReset s).chstate = s.chstate := rfl
@[simp] theorem peripheralReset_irqMask (s : State) : (peripheralReset s).irqMask = s.irqMask := rfl
@[simp] theorem peripheralReset_irqSave (s : State) : (peripheralReset s).irqSave = s.irqSave := rfl
@[simp] theorem peripheralReset_fcode (s : State) : (peripheralReset s).fcode = s.fcode := rfl
@[simp] theorem peripheralReset_halt (s : State) : (peripheralReset s).halt = s.halt := rfl
@[simp] theorem peripheralReset_pinmux (s : State) : (peripheralReset s).pinmux = s.pinmux := rfl
@[simp] theorem peripheralReset_inputs (s : State) : (peripheralReset s).inputs = s.inputs := rfl
@[simp] theorem peripheralReset_schedule (s : State) : (peripheralReset s).schedule = s.schedule := rfl
@[simp] theorem peripheralReset_outputs (s : State) : (peripheralReset s).outputs = s.outputs := rfl

/-! ### `hardwareReset` -/

@[simp] theorem hardwareReset_cfg (s : State) : (hardwareReset s).cfg = s.cfg := rfl
@[simp] theorem hardwareReset_psc (s : State) : (hardwareReset s).psc = 0#16 := rfl
@[simp] theorem hardwareReset_arr (s : State) : (hardwareReset s).arr = 0xFFFF#16 := rfl
@[simp] theorem hardwareReset_ccr (s : State) : (hardwareReset s).ccr = ⟨0#16, 0#16, 0#16, 0#16⟩ := rfl
@[simp] theorem hardwareReset_cen (s : State) : (hardwareReset s).cen = false := rfl
@[simp] theorem hardwareReset_ocpe (s : State) : (hardwareReset s).ocpe = ⟨false, false, false, false⟩ := rfl
@[simp] theorem hardwareReset_ocm (s : State) : (hardwareReset s).ocm = ⟨0#3, 0#3, 0#3, 0#3⟩ := rfl
@[simp] theorem hardwareReset_cce (s : State) : (hardwareReset s).cce = ⟨false, false, false, false⟩ := rfl
@[simp] theorem hardwareReset_cnt (s : State) : (hardwareReset s).cnt = 0#16 := rfl
@[simp] theorem hardwareReset_psccnt (s : State) : (hardwareReset s).psccnt = 0#16 := rfl
@[simp] theorem hardwareReset_ccra (s : State) : (hardwareReset s).ccra = ⟨0#16, 0#16, 0#16, 0#16⟩ := rfl
@[simp] theorem hardwareReset_clken (s : State) : (hardwareReset s).clken = false := rfl
@[simp] theorem hardwareReset_initialized (s : State) : (hardwareReset s).initialized = false := rfl
@[simp] theorem hardwareReset_chstate (s : State) : (hardwareReset s).chstate = ⟨.unassigned, .unassigned, .unassigned, .unassigned⟩ := rfl
@[simp] theorem hardwareReset_irqMask (s : State) : (hardwareReset s).irqMask = false := rfl
@[simp] theorem hardwareReset_irqSave (s : State) : (hardwareReset s).irqSave = false := rfl
@[simp] theorem hardwareReset_fcode (s : State) : (hardwareReset s).fcode = 0#4 := rfl
@[simp] theorem hardwareReset_halt (s : State) : (hardwareReset s).halt = false := rfl
@[simp] theorem hardwareReset_pinmux (s : State) : (hardwareReset s).pinmux = s.pinmux := rfl
@[simp] theorem hardwareReset_inputs (s : State) : (hardwareReset s).inputs = s.inputs := rfl
@[simp] theorem hardwareReset_schedule (s : State) : (hardwareReset s).schedule = s.schedule := rfl
@[simp] theorem hardwareReset_outputs (s : State) : (hardwareReset s).outputs = s.outputs := rfl

/-! ### `updateEvent` -/

@[simp] theorem updateEvent_cfg (s : State) : (updateEvent s).cfg = s.cfg := rfl
@[simp] theorem updateEvent_psc (s : State) : (updateEvent s).psc = s.psc := rfl
@[simp] theorem updateEvent_arr (s : State) : (updateEvent s).arr = s.arr := rfl
@[simp] theorem updateEvent_ccr (s : State) : (updateEvent s).ccr = s.ccr := rfl
@[simp] theorem updateEvent_cen (s : State) : (updateEvent s).cen = s.cen := rfl
@[simp] theorem updateEvent_ocpe (s : State) : (updateEvent s).ocpe = s.ocpe := rfl
@[simp] theorem updateEvent_ocm (s : State) : (updateEvent s).ocm = s.ocm := rfl
@[simp] theorem updateEvent_cce (s : State) : (updateEvent s).cce = s.cce := rfl
@[simp] theorem updateEvent_cnt (s : State) : (updateEvent s).cnt = s.cnt := rfl
@[simp] theorem updateEvent_psccnt (s : State) : (updateEvent s).psccnt = s.psccnt := rfl
@[simp] theorem updateEvent_ccra (s : State) : (updateEvent s).ccra = s.ccr := rfl
@[simp] theorem updateEvent_clken (s : State) : (updateEvent s).clken = s.clken := rfl
@[simp] theorem updateEvent_initialized (s : State) : (updateEvent s).initialized = s.initialized := rfl
@[simp] theorem updateEvent_chstate (s : State) : (updateEvent s).chstate = s.chstate := rfl
@[simp] theorem updateEvent_irqMask (s : State) : (updateEvent s).irqMask = s.irqMask := rfl
@[simp] theorem updateEvent_irqSave (s : State) : (updateEvent s).irqSave = s.irqSave := rfl
@[simp] theorem updateEvent_fcode (s : State) : (updateEvent s).fcode = s.fcode := rfl
@[simp] theorem updateEvent_halt (s : State) : (updateEvent s).halt = s.halt := rfl
@[simp] theorem updateEvent_pinmux (s : State) : (updateEvent s).pinmux = s.pinmux := rfl
@[simp] theorem updateEvent_inputs (s : State) : (updateEvent s).inputs = s.inputs := rfl
@[simp] theorem updateEvent_schedule (s : State) : (updateEvent s).schedule = s.schedule := rfl
@[simp] theorem updateEvent_outputs (s : State) : (updateEvent s).outputs = s.outputs := rfl

/-! ### `tick`, `tickN`, `dueTicks`: every field but the counter's -/

@[simp] theorem tick_cfg (s : State) : (tick s).cfg = s.cfg := by
  unfold tick counterTick; split <;> [split <;> [split <;> rfl; rfl]; rfl]
@[simp] theorem tick_psc (s : State) : (tick s).psc = s.psc := by
  unfold tick counterTick; split <;> [split <;> [split <;> rfl; rfl]; rfl]
@[simp] theorem tick_arr (s : State) : (tick s).arr = s.arr := by
  unfold tick counterTick; split <;> [split <;> [split <;> rfl; rfl]; rfl]
@[simp] theorem tick_ccr (s : State) : (tick s).ccr = s.ccr := by
  unfold tick counterTick; split <;> [split <;> [split <;> rfl; rfl]; rfl]
@[simp] theorem tick_cen (s : State) : (tick s).cen = s.cen := by
  unfold tick counterTick; split <;> [split <;> [split <;> rfl; rfl]; rfl]
@[simp] theorem tick_ocpe (s : State) : (tick s).ocpe = s.ocpe := by
  unfold tick counterTick; split <;> [split <;> [split <;> rfl; rfl]; rfl]
@[simp] theorem tick_ocm (s : State) : (tick s).ocm = s.ocm := by
  unfold tick counterTick; split <;> [split <;> [split <;> rfl; rfl]; rfl]
@[simp] theorem tick_cce (s : State) : (tick s).cce = s.cce := by
  unfold tick counterTick; split <;> [split <;> [split <;> rfl; rfl]; rfl]
@[simp] theorem tick_clken (s : State) : (tick s).clken = s.clken := by
  unfold tick counterTick; split <;> [split <;> [split <;> rfl; rfl]; rfl]
@[simp] theorem tick_initialized (s : State) : (tick s).initialized = s.initialized := by
  unfold tick counterTick; split <;> [split <;> [split <;> rfl; rfl]; rfl]
@[simp] theorem tick_chstate (s : State) : (tick s).chstate = s.chstate := by
  unfold tick counterTick; split <;> [split <;> [split <;> rfl; rfl]; rfl]
@[simp] theorem tick_irqMask (s : State) : (tick s).irqMask = s.irqMask := by
  unfold tick counterTick; split <;> [split <;> [split <;> rfl; rfl]; rfl]
@[simp] theorem tick_irqSave (s : State) : (tick s).irqSave = s.irqSave := by
  unfold tick counterTick; split <;> [split <;> [split <;> rfl; rfl]; rfl]
@[simp] theorem tick_fcode (s : State) : (tick s).fcode = s.fcode := by
  unfold tick counterTick; split <;> [split <;> [split <;> rfl; rfl]; rfl]
@[simp] theorem tick_halt (s : State) : (tick s).halt = s.halt := by
  unfold tick counterTick; split <;> [split <;> [split <;> rfl; rfl]; rfl]
@[simp] theorem tick_pinmux (s : State) : (tick s).pinmux = s.pinmux := by
  unfold tick counterTick; split <;> [split <;> [split <;> rfl; rfl]; rfl]
@[simp] theorem tick_inputs (s : State) : (tick s).inputs = s.inputs := by
  unfold tick counterTick; split <;> [split <;> [split <;> rfl; rfl]; rfl]
@[simp] theorem tick_schedule (s : State) : (tick s).schedule = s.schedule := by
  unfold tick counterTick; split <;> [split <;> [split <;> rfl; rfl]; rfl]
@[simp] theorem tick_outputs (s : State) : (tick s).outputs = s.outputs := by
  unfold tick counterTick; split <;> [split <;> [split <;> rfl; rfl]; rfl]
@[simp] theorem tickN_cfg (n : Nat) (s : State) : (tickN n s).cfg = s.cfg := by
  induction n generalizing s with
  | zero => rfl
  | succ n ih => exact (ih (tick s)).trans (tick_cfg s)
@[simp] theorem tickN_psc (n : Nat) (s : State) : (tickN n s).psc = s.psc := by
  induction n generalizing s with
  | zero => rfl
  | succ n ih => exact (ih (tick s)).trans (tick_psc s)
@[simp] theorem tickN_arr (n : Nat) (s : State) : (tickN n s).arr = s.arr := by
  induction n generalizing s with
  | zero => rfl
  | succ n ih => exact (ih (tick s)).trans (tick_arr s)
@[simp] theorem tickN_ccr (n : Nat) (s : State) : (tickN n s).ccr = s.ccr := by
  induction n generalizing s with
  | zero => rfl
  | succ n ih => exact (ih (tick s)).trans (tick_ccr s)
@[simp] theorem tickN_cen (n : Nat) (s : State) : (tickN n s).cen = s.cen := by
  induction n generalizing s with
  | zero => rfl
  | succ n ih => exact (ih (tick s)).trans (tick_cen s)
@[simp] theorem tickN_ocpe (n : Nat) (s : State) : (tickN n s).ocpe = s.ocpe := by
  induction n generalizing s with
  | zero => rfl
  | succ n ih => exact (ih (tick s)).trans (tick_ocpe s)
@[simp] theorem tickN_ocm (n : Nat) (s : State) : (tickN n s).ocm = s.ocm := by
  induction n generalizing s with
  | zero => rfl
  | succ n ih => exact (ih (tick s)).trans (tick_ocm s)
@[simp] theorem tickN_cce (n : Nat) (s : State) : (tickN n s).cce = s.cce := by
  induction n generalizing s with
  | zero => rfl
  | succ n ih => exact (ih (tick s)).trans (tick_cce s)
@[simp] theorem tickN_clken (n : Nat) (s : State) : (tickN n s).clken = s.clken := by
  induction n generalizing s with
  | zero => rfl
  | succ n ih => exact (ih (tick s)).trans (tick_clken s)
@[simp] theorem tickN_initialized (n : Nat) (s : State) : (tickN n s).initialized = s.initialized := by
  induction n generalizing s with
  | zero => rfl
  | succ n ih => exact (ih (tick s)).trans (tick_initialized s)
@[simp] theorem tickN_chstate (n : Nat) (s : State) : (tickN n s).chstate = s.chstate := by
  induction n generalizing s with
  | zero => rfl
  | succ n ih => exact (ih (tick s)).trans (tick_chstate s)
@[simp] theorem tickN_irqMask (n : Nat) (s : State) : (tickN n s).irqMask = s.irqMask := by
  induction n generalizing s with
  | zero => rfl
  | succ n ih => exact (ih (tick s)).trans (tick_irqMask s)
@[simp] theorem tickN_irqSave (n : Nat) (s : State) : (tickN n s).irqSave = s.irqSave := by
  induction n generalizing s with
  | zero => rfl
  | succ n ih => exact (ih (tick s)).trans (tick_irqSave s)
@[simp] theorem tickN_fcode (n : Nat) (s : State) : (tickN n s).fcode = s.fcode := by
  induction n generalizing s with
  | zero => rfl
  | succ n ih => exact (ih (tick s)).trans (tick_fcode s)
@[simp] theorem tickN_halt (n : Nat) (s : State) : (tickN n s).halt = s.halt := by
  induction n generalizing s with
  | zero => rfl
  | succ n ih => exact (ih (tick s)).trans (tick_halt s)
@[simp] theorem tickN_pinmux (n : Nat) (s : State) : (tickN n s).pinmux = s.pinmux := by
  induction n generalizing s with
  | zero => rfl
  | succ n ih => exact (ih (tick s)).trans (tick_pinmux s)
@[simp] theorem tickN_inputs (n : Nat) (s : State) : (tickN n s).inputs = s.inputs := by
  induction n generalizing s with
  | zero => rfl
  | succ n ih => exact (ih (tick s)).trans (tick_inputs s)
@[simp] theorem tickN_schedule (n : Nat) (s : State) : (tickN n s).schedule = s.schedule := by
  induction n generalizing s with
  | zero => rfl
  | succ n ih => exact (ih (tick s)).trans (tick_schedule s)
@[simp] theorem tickN_outputs (n : Nat) (s : State) : (tickN n s).outputs = s.outputs := by
  induction n generalizing s with
  | zero => rfl
  | succ n ih => exact (ih (tick s)).trans (tick_outputs s)
@[simp] theorem dueTicks_cfg (s : State) : (dueTicks s).cfg = s.cfg := by
  unfold dueTicks; split <;> simp
@[simp] theorem dueTicks_psc (s : State) : (dueTicks s).psc = s.psc := by
  unfold dueTicks; split <;> simp
@[simp] theorem dueTicks_arr (s : State) : (dueTicks s).arr = s.arr := by
  unfold dueTicks; split <;> simp
@[simp] theorem dueTicks_ccr (s : State) : (dueTicks s).ccr = s.ccr := by
  unfold dueTicks; split <;> simp
@[simp] theorem dueTicks_cen (s : State) : (dueTicks s).cen = s.cen := by
  unfold dueTicks; split <;> simp
@[simp] theorem dueTicks_ocpe (s : State) : (dueTicks s).ocpe = s.ocpe := by
  unfold dueTicks; split <;> simp
@[simp] theorem dueTicks_ocm (s : State) : (dueTicks s).ocm = s.ocm := by
  unfold dueTicks; split <;> simp
@[simp] theorem dueTicks_cce (s : State) : (dueTicks s).cce = s.cce := by
  unfold dueTicks; split <;> simp
@[simp] theorem dueTicks_clken (s : State) : (dueTicks s).clken = s.clken := by
  unfold dueTicks; split <;> simp
@[simp] theorem dueTicks_initialized (s : State) : (dueTicks s).initialized = s.initialized := by
  unfold dueTicks; split <;> simp
@[simp] theorem dueTicks_chstate (s : State) : (dueTicks s).chstate = s.chstate := by
  unfold dueTicks; split <;> simp
@[simp] theorem dueTicks_irqMask (s : State) : (dueTicks s).irqMask = s.irqMask := by
  unfold dueTicks; split <;> simp
@[simp] theorem dueTicks_irqSave (s : State) : (dueTicks s).irqSave = s.irqSave := by
  unfold dueTicks; split <;> simp
@[simp] theorem dueTicks_fcode (s : State) : (dueTicks s).fcode = s.fcode := by
  unfold dueTicks; split <;> simp
@[simp] theorem dueTicks_halt (s : State) : (dueTicks s).halt = s.halt := by
  unfold dueTicks; split <;> simp
@[simp] theorem dueTicks_pinmux (s : State) : (dueTicks s).pinmux = s.pinmux := by
  unfold dueTicks; split <;> simp
@[simp] theorem dueTicks_inputs (s : State) : (dueTicks s).inputs = s.inputs := by
  unfold dueTicks; split <;> simp
@[simp] theorem dueTicks_outputs (s : State) : (dueTicks s).outputs = s.outputs := by
  unfold dueTicks; split <;> simp
@[simp] theorem dueTicks_schedule (s : State) : (dueTicks s).schedule = s.schedule.tail := by
  unfold dueTicks; split <;> simp_all

end Sys2Proof.Machine
end

