-- ==== Sys2Proof/Laws/Counter.lean ====
section
/-! SUPPORT. What TICKs can do, and which changes of the state they commute with (R71, R214). -/

namespace Sys2Proof.Machine

/-- One TICK, every case (R210 to R213). -/
theorem tick_cases (s : State) :
    (tickEnabled s = false ∧ tick s = s) ∨
    (tickEnabled s = true ∧ s.psccnt < s.psc ∧ tick s = { s with psccnt := s.psccnt + 1#16 }) ∨
    (tickEnabled s = true ∧ s.psc ≤ s.psccnt ∧ s.cnt < s.arr ∧
      tick s = { s with psccnt := 0#16, cnt := s.cnt + 1#16 }) ∨
    (tickEnabled s = true ∧ s.psc ≤ s.psccnt ∧ s.arr ≤ s.cnt ∧
      tick s = { s with psccnt := 0#16, cnt := 0#16, ccra := s.ccr }) := by
  cases he : tickEnabled s
  · exact .inl ⟨rfl, by simp [tick, he]⟩
  · by_cases hp : s.psc ≤ s.psccnt
    · by_cases hc : s.arr ≤ s.cnt
      · exact .inr (.inr (.inr ⟨rfl, hp, hc, by simp [tick, he, hp, counterTick, hc, updateEvent]⟩))
      · exact .inr (.inr (.inl ⟨rfl, hp, BitVec.not_le.1 hc, by simp [tick, he, hp, counterTick, hc]⟩))
    · exact .inr (.inl ⟨rfl, BitVec.not_le.1 hp, by simp [tick, he, hp]⟩)

theorem tickN_succ (n : Nat) (s : State) : tickN (n + 1) s = tickN n (tick s) := rfl

@[simp] theorem tickN_zero (s : State) : tickN 0 s = s := rfl

theorem tickN_add (m n : Nat) (s : State) : tickN (m + n) s = tickN n (tickN m s) := by
  induction m generalizing s with
  | zero => simp
  | succ m ih => rw [Nat.succ_add, tickN_succ, ih, tickN_succ]

theorem tickN_succ_last (n : Nat) (s : State) : tickN (n + 1) s = tick (tickN n s) := tickN_add n 1 s

/-- Without the enable any number of TICKs leaves the state as it is (R210). -/
theorem tickN_disabled (n : Nat) {s : State} (h : tickEnabled s = false) : tickN n s = s := by
  induction n with
  | zero => rfl
  | succ n ih => rw [tickN_succ, show tick s = s by simp [tick, h], ih]

/-- A change that keeps everything the counter reads or writes, and does not look at what it writes, commutes with
a TICK. -/
theorem tick_comm (f : State → State)
    (hf : ∀ (s : State) (c p : Half) (a : ByChannel Half),
      f { s with cnt := c, psccnt := p, ccra := a } = { f s with cnt := c, psccnt := p, ccra := a })
    (hk : ∀ s, (f s).psc = s.psc ∧ (f s).arr = s.arr ∧ (f s).ccr = s.ccr ∧ (f s).cen = s.cen ∧
      (f s).clken = s.clken ∧ (f s).cnt = s.cnt ∧ (f s).psccnt = s.psccnt ∧ (f s).ccra = s.ccra) (s : State) :
    f (tick s) = tick (f s) := by
  obtain ⟨h1, h2, h3, h4, h5, h6, h7, h8⟩ := hk s
  have e : tickEnabled (f s) = tickEnabled s := by simp [tickEnabled, h4, h5]
  rcases tick_cases s with ⟨he, ht⟩ | ⟨he, hp, ht⟩ | ⟨he, hp, hc, ht⟩ | ⟨he, hp, hc, ht⟩ <;> rw [ht]
  · simp [tick, e, he]
  · simp only [hf s s.cnt (s.psccnt + 1#16) s.ccra, tick, e, he, h1, h7, BitVec.not_le.2 hp, if_true, if_false]
    simp [h2, h3, h4, h5, h6, h8]
  · simp only [hf s (s.cnt + 1#16) 0#16 s.ccra, tick, counterTick, e, he, h1, h2, h6, h7, hp, BitVec.not_le.2 hc,
      if_true, if_false]
    simp [h3, h4, h5, h8]
  · simp only [hf s 0#16 0#16 s.ccr, tick, counterTick, updateEvent, e, he, h1, h2, h3, h6, h7, hp, hc, if_true]

theorem tickN_comm (f : State → State)
    (hf : ∀ (s : State) (c p : Half) (a : ByChannel Half),
      f { s with cnt := c, psccnt := p, ccra := a } = { f s with cnt := c, psccnt := p, ccra := a })
    (hk : ∀ s, (f s).psc = s.psc ∧ (f s).arr = s.arr ∧ (f s).ccr = s.ccr ∧ (f s).cen = s.cen ∧
      (f s).clken = s.clken ∧ (f s).cnt = s.cnt ∧ (f s).psccnt = s.psccnt ∧ (f s).ccra = s.ccra)
    (n : Nat) (s : State) : f (tickN n s) = tickN n (f s) := by
  induction n generalizing s with
  | zero => rfl
  | succ n ih => rw [tickN_succ, ih, tick_comm f hf hk, tickN_succ]

/-- The TICKs before a micro-step are the schedule's first entry. -/
theorem dueTicks_eq (s : State) :
    dueTicks s = tickN (s.schedule.headD 0) { s with schedule := s.schedule.tail } := by
  obtain ⟨cfg, psc, arr, ccr, cen, ocpe, ocm, cce, cnt, psccnt, ccra, clken, ini, chs, im, is, fc, ha, pm, inp, sch, out⟩ := s
  cases sch <;> rfl

theorem dueTicks_of_none {s : State} (h : s.schedule = []) : dueTicks s = s := by simp [dueTicks, h]

/-- Every state a trail passes through is some number of TICKs from its start. -/
theorem mem_tickTrail {n : Nat} {s u : State} (h : u ∈ tickTrail n s) : ∃ k ≤ n, u = tickN k s := by
  induction n generalizing s with
  | zero => exact ⟨0, Nat.le_refl _, by simpa [tickTrail] using h⟩
  | succ n ih =>
    rcases List.mem_cons.1 h with rfl | h
    · exact ⟨0, Nat.zero_le _, rfl⟩
    · obtain ⟨k, hk, rfl⟩ := ih h
      exact ⟨k + 1, Nat.succ_le_succ hk, rfl⟩

/-- The states before a micro-step are TICKs away from the state with the schedule's entry taken. -/
theorem mem_dueTrail {s u : State} (h : u ∈ dueTrail s) :
    ∃ k ≤ s.schedule.headD 0, u = tickN k { s with schedule := s.schedule.tail } := by
  obtain ⟨cfg, psc, arr, ccr, cen, ocpe, ocm, cce, cnt, psccnt, ccra, clken, ini, chs, im, is, fc, ha, pm, inp, sch, out⟩ := s
  cases sch with
  | nil => exact ⟨0, Nat.le_refl _, by simpa [dueTrail] using h⟩
  | cons n rest => exact mem_tickTrail h

end Sys2Proof.Machine
end

