-- ==== Sys2Proof/Laws/Decode.lean ====
section
/-! SUPPORT. Bits and fields of a command word, and the rows of the opcode map a word can hit. -/

namespace Sys2Proof

theorem getLsbD_layout (op : BitVec 4) (ch : BitVec 2) (imm : BitVec 32) (i : Nat) :
    (layout op ch imm).getLsbD i =
      if i < 32 then imm.getLsbD i else if i < 34 then false else if i < 36 then ch.getLsbD (i - 34)
      else op.getLsbD (i - 36) := by
  unfold layout
  simp only [BitVec.getLsbD_append]
  by_cases h1 : i < 32
  · simp [h1]
  · by_cases h2 : i < 34
    · have : i - 32 < 2 := by omega
      simp [h1, h2, this]
    · have h3 : ¬ (i - 32 < 2) := by omega
      by_cases h4 : i < 36
      · have : i - 32 - 2 < 2 := by omega
        have e : i - 32 - 2 = i - 34 := by omega
        simp [h1, h2, h3, h4, e]; omega
      · have e : i - 32 - 2 - 2 = i - 36 := by omega
        simp [h1, h2, h3, h4, e]; omega

@[simp] theorem opField_layout (op : BitVec 4) (ch : BitVec 2) (imm : BitVec 32) : opField (layout op ch imm) = op := by
  apply BitVec.eq_of_getLsbD_eq; intro i hi
  simp only [opField, BitVec.getLsbD_extractLsb', getLsbD_layout]
  interval_cases i <;> simp

@[simp] theorem chField_layout (op : BitVec 4) (ch : BitVec 2) (imm : BitVec 32) : chField (layout op ch imm) = ch := by
  apply BitVec.eq_of_getLsbD_eq; intro i hi
  simp only [chField, BitVec.getLsbD_extractLsb', getLsbD_layout]
  interval_cases i <;> simp

@[simp] theorem rsvField_layout (op : BitVec 4) (ch : BitVec 2) (imm : BitVec 32) :
    rsvField (layout op ch imm) = 0#2 := by
  apply BitVec.eq_of_getLsbD_eq; intro i hi
  simp only [rsvField, BitVec.getLsbD_extractLsb', getLsbD_layout]
  interval_cases i <;> simp

@[simp] theorem immField_layout (op : BitVec 4) (ch : BitVec 2) (imm : BitVec 32) :
    immField (layout op ch imm) = imm := by
  apply BitVec.eq_of_getLsbD_eq; intro i hi
  simp [immField, getLsbD_layout, hi]

@[simp] theorem Channel.ofField_field (ch : Channel) : Channel.ofField ch.field = ch := by
  cases ch <;> rfl

@[simp] theorem Channel.field_ofField (v : BitVec 2) : (Channel.ofField v).field = v := by
  revert v; decide

/-- A word with its reserved bits clear is the layout of its fields (R90). -/
theorem layout_fields (cw : CommandWord) (h : rsvField cw = 0#2) :
    layout (opField cw) (chField cw) (immField cw) = cw := by
  apply BitVec.eq_of_getLsbD_eq; intro i hi
  have hr : ∀ j < 2, cw.getLsbD (32 + j) = false := by
    intro j hj
    have := congrArg (fun v => v.getLsbD j) h
    simpa [rsvField, hj] using this
  rw [getLsbD_layout]
  by_cases h1 : i < 32
  · simp [h1, immField]
  · by_cases h2 : i < 34
    · have := hr (i - 32) (by omega)
      rw [show 32 + (i - 32) = i by omega] at this
      simp [h1, h2, this]
    · by_cases h4 : i < 36
      · have e : 34 + (i - 34) = i := by omega
        have : i - 34 < 2 := by omega
        simp [h1, h2, h4, chField, e, this]
      · have e : 36 + (i - 36) = i := by omega
        have : i - 36 < 4 := by omega
        simp [h1, h2, h4, opField, e, this]

/-- Two rows that both mask in a bit on which their patterns differ hit no common word. -/
theorem hits_exclusive {r r' : OpRow} {cw : CommandWord}
    (hd : r.mask &&& r'.mask &&& (r.pat ^^^ r'.pat) ≠ 0#40) (h : r.hits cw = true) : r'.hits cw = false := by
  by_contra hc
  rw [Bool.not_eq_false] at hc
  apply hd
  have h1 : cw &&& r.mask = r.pat := by simpa [OpRow.hits] using h
  have h2 : cw &&& r'.mask = r'.pat := by simpa [OpRow.hits] using hc
  apply BitVec.eq_of_getLsbD_eq; intro i hi
  rw [← h1, ← h2]
  simp only [BitVec.getLsbD_and, BitVec.getLsbD_xor, BitVec.getLsbD_zero]
  cases cw.getLsbD i <;> cases r.mask.getLsbD i <;> cases r'.mask.getLsbD i <;> rfl

/-- Any two rows of the opcode map differ on a bit both mask in (R92). -/
theorem opcodeMap_rows_differ :
    opcodeMap.Pairwise fun r r' => r.mask &&& r'.mask &&& (r.pat ^^^ r'.pat) ≠ 0#40 := by decide

/-- A decoded word hits a row of the map, and the command is that row's (R95). -/
theorem decode_ok {cw : CommandWord} {i : Instr} (h : decode cw = .ok i) :
    ∃ r ∈ opcodeMap, r.hits cw = true ∧ assemble r.op cw = i := by
  unfold decode at h
  split at h
  · rename_i r hr
    exact ⟨r, List.mem_of_find?_eq_some hr, by simpa using List.find?_some hr, by simpa using h⟩
  · cases h

end Sys2Proof
end

