-- ==== Sys2Proof/Laws/Issue.lean ====
section
/-! SUPPORT. How a placed table word and the decoder agree (R90, R95), and when a step among several instances is the
step of one by itself (R73, R193). -/

namespace Sys2Proof.Machine

/-- What the decoder reads from a table word is what it reads from the word that is placed for it. -/
theorem decodeTableWord_eq (nbits w : Nat) :
    decodeTableWord nbits w = (decode (tableCommand nbits w)).toOption := by
  unfold decodeTableWord tableCommand
  split
  · cases decode (BitVec.ofNat 40 (w % 2 ^ nbits)) <;> rfl
  · rfl

/-- With no pin owned elsewhere, ASSIGN tests what one instance by itself tests. -/
theorem stepAmong_none (s : State) : stepAmong (fun _ => false) s = step s := by
  unfold stepAmong
  split
  · rename_i cw rest hi
    split
    · rename_i ch pin hd
      simp only [step, stepOnce, hi, accept, issue, hd]
      rfl
    · rfl
  · rfl

end Sys2Proof.Machine
end

