-- ==== Sys2Proof/Laws/Registers.lean ====
section
/-! SUPPORT. Register words: what a read gives after a write, and what the two read-modify-writes of R152 and R154
do to the fields. -/

namespace Sys2Proof.Machine

/-- Reading after writing through a mask of implemented bits: the mode registers (R62). -/
theorem modeWord_of_bits (v : Word) :
    modeWord (v.getLsbD 3, v.extractLsb' 4 3) (v.getLsbD 11, v.extractLsb' 12 3) = v &&& 0x00007878#32 := by
  apply BitVec.eq_of_getLsbD_eq; intro i hi
  simp only [modeWord, BitVec.getLsbD_append, BitVec.getLsbD_and]
  interval_cases i <;> simp

/-- The same for `CCER`. -/
theorem enableWord_of_bits (v : Word) :
    enableWord ⟨v.getLsbD 0, v.getLsbD 4, v.getLsbD 8, v.getLsbD 12⟩ = v &&& 0x00001111#32 := by
  apply BitVec.eq_of_getLsbD_eq; intro i hi
  simp only [enableWord, BitVec.getLsbD_append, BitVec.getLsbD_and]
  interval_cases i <;> simp

/-- The fields of a mode word are the fields it was made of (R25). -/
theorem modeWord_fields (lo hi : Bool × OcMode) :
    (modeWord lo hi).getLsbD 3 = lo.1 ∧ (modeWord lo hi).extractLsb' 4 3 = lo.2 ∧
      (modeWord lo hi).getLsbD 11 = hi.1 ∧ (modeWord lo hi).extractLsb' 12 3 = hi.2 := by
  obtain ⟨a, b⟩ := lo; obtain ⟨c, d⟩ := hi
  revert a b c d; decide

/-- The first channel's fields replaced, the second's kept (R152, R162). -/
theorem modeWord_modify_lo (lo hi : Bool × OcMode) :
    let v := (modeWord lo hi &&& ~~~0x00000078#32) ||| 0x00000068#32
    v.getLsbD 3 = true ∧ v.extractLsb' 4 3 = pwmMode1 ∧ v.getLsbD 11 = hi.1 ∧ v.extractLsb' 12 3 = hi.2 := by
  obtain ⟨a, b⟩ := lo; obtain ⟨c, d⟩ := hi
  revert a b c d; decide

/-- The second channel's fields replaced, the first's kept (R152, R162). -/
theorem modeWord_modify_hi (lo hi : Bool × OcMode) :
    let v := (modeWord lo hi &&& ~~~0x00007800#32) ||| 0x00006800#32
    v.getLsbD 3 = lo.1 ∧ v.extractLsb' 4 3 = lo.2 ∧ v.getLsbD 11 = true ∧ v.extractLsb' 12 3 = pwmMode1 := by
  obtain ⟨a, b⟩ := lo; obtain ⟨c, d⟩ := hi
  revert a b c d; decide

/-- ENABLE's first read-modify-write sets the channel's two fields and no other (R152). -/
theorem writeReg_mode (ch : Channel) (s : State) :
    writeReg (modeReg ch) ((readReg (modeReg ch) s &&& ~~~(modeClear ch)) ||| modeSet ch) s =
      { s with ocpe := s.ocpe.set ch true, ocm := s.ocm.set ch pwmMode1 } := by
  cases ch
  · obtain ⟨h1, h2, h3, h4⟩ := modeWord_modify_lo (s.ocpe.c1, s.ocm.c1) (s.ocpe.c2, s.ocm.c2)
    simp only [modeReg, modeClear, modeSet, readReg, writeReg, ByChannel.set, h1, h2, h3, h4]
  · obtain ⟨h1, h2, h3, h4⟩ := modeWord_modify_hi (s.ocpe.c1, s.ocm.c1) (s.ocpe.c2, s.ocm.c2)
    simp only [modeReg, modeClear, modeSet, readReg, writeReg, ByChannel.set, h1, h2, h3, h4]
  · obtain ⟨h1, h2, h3, h4⟩ := modeWord_modify_lo (s.ocpe.c3, s.ocm.c3) (s.ocpe.c4, s.ocm.c4)
    simp only [modeReg, modeClear, modeSet, readReg, writeReg, ByChannel.set, h1, h2, h3, h4]
  · obtain ⟨h1, h2, h3, h4⟩ := modeWord_modify_hi (s.ocpe.c3, s.ocm.c3) (s.ocpe.c4, s.ocm.c4)
    simp only [modeReg, modeClear, modeSet, readReg, writeReg, ByChannel.set, h1, h2, h3, h4]

/-- Setting a channel's enable bit in the word of `CCER` (R152). -/
theorem enableWord_set (ch : Channel) (e : ByChannel Bool) :
    let v := (enableWord e &&& ~~~0#32) ||| enableBit ch
    (⟨v.getLsbD 0, v.getLsbD 4, v.getLsbD 8, v.getLsbD 12⟩ : ByChannel Bool) = e.set ch true := by
  obtain ⟨a, b, c, d⟩ := e
  cases ch <;> revert a b c d <;> decide

/-- Clearing a channel's enable bit in the word of `CCER` (R154). -/
theorem enableWord_clear (ch : Channel) (e : ByChannel Bool) :
    let v := (enableWord e &&& ~~~(enableBit ch)) ||| 0#32
    (⟨v.getLsbD 0, v.getLsbD 4, v.getLsbD 8, v.getLsbD 12⟩ : ByChannel Bool) = e.set ch false := by
  obtain ⟨a, b, c, d⟩ := e
  cases ch <;> revert a b c d <;> decide

/-- ENABLE's second read-modify-write sets the channel's enable bit and no other (R152). -/
theorem writeReg_enable (ch : Channel) (s : State) :
    writeReg .ccer ((readReg .ccer s &&& ~~~0#32) ||| enableBit ch) s = { s with cce := s.cce.set ch true } := by
  simp only [writeReg, readReg, ← enableWord_set ch s.cce]

/-- DISABLE's read-modify-write clears the channel's enable bit and no other (R154). -/
theorem writeReg_disable (ch : Channel) (s : State) :
    writeReg .ccer ((readReg .ccer s &&& ~~~(enableBit ch)) ||| 0#32) s = { s with cce := s.cce.set ch false } := by
  simp only [writeReg, readReg, ← enableWord_clear ch s.cce]

@[simp] theorem setWidth_half (d : Half) : (d.setWidth 32).setWidth 16 = d := by
  apply BitVec.eq_of_getLsbD_eq; intro i hi
  simp [hi]

/-- SET_DUTY's write (R156). -/
theorem writeReg_duty (ch : Channel) (d : Half) (s : State) :
    writeReg (dutyReg ch) (d.setWidth 32) s = writeDuty ch d s := by
  simp [dutyReg, writeReg]

/-- No read sees anything but the registers: a read is a function of the registers' fields (R66). -/
theorem readReg_congr {r : Reg} {s u : State} (h1 : s.cen = u.cen) (h2 : s.ocpe = u.ocpe) (h3 : s.ocm = u.ocm)
    (h4 : s.cce = u.cce) (h5 : s.cnt = u.cnt) (h6 : s.psc = u.psc) (h7 : s.arr = u.arr) (h8 : s.ccr = u.ccr) :
    readReg r s = readReg r u := by
  cases r <;> simp [readReg, *]

/-- A pin record read after a write (R32). -/
theorem pinmuxSet_wf {l : List (PinId × AfSel)} {pin : PinId} {sel : AfSel} (h : pinmuxWf l = true) :
    pinmuxWf (pinmuxSet l pin sel) = true := by
  have key : ∀ (l : List (PinId × AfSel)), l.Pairwise (fun a b => a.1 < b.1) →
      (pinmuxSet l pin sel).Pairwise (fun a b => a.1 < b.1) ∧
      ∀ p : PinId, p < pin → (∀ x ∈ l, p < x.1) → ∀ x ∈ pinmuxSet l pin sel, p < x.1 := by
    intro l
    induction l with
    | nil => intro _; simp [pinmuxSet]
    | cons x rest ih =>
      intro hl
      obtain ⟨q, a⟩ := x
      rw [List.pairwise_cons] at hl
      obtain ⟨hq, hr⟩ := hl
      obtain ⟨ihp, ihb⟩ := ih hr
      unfold pinmuxSet
      by_cases h1 : pin = q
      · subst h1
        rw [if_pos rfl]
        refine ⟨List.pairwise_cons.2 ⟨hq, hr⟩, ?_⟩
        intro p hp hall x hx
        rcases List.mem_cons.1 hx with rfl | hx
        · exact hp
        · exact hall x (List.mem_cons_of_mem _ hx)
      · rw [if_neg h1]
        by_cases h2 : pin < q
        · rw [if_pos h2]
          refine ⟨List.pairwise_cons.2 ⟨?_, List.pairwise_cons.2 ⟨hq, hr⟩⟩, ?_⟩
          · intro y hy
            rcases List.mem_cons.1 hy with rfl | hy
            · exact h2
            · exact BitVec.lt_trans h2 (hq y hy)
          · intro p hp hall x hx
            rcases List.mem_cons.1 hx with rfl | hx
            · exact hp
            · exact hall x hx
        · rw [if_neg h2]
          have hqp : q < pin := by
            have : q ≠ pin := fun e => h1 e.symm
            simp only [BitVec.lt_def, BitVec.toNat_ne] at *; omega
          refine ⟨List.pairwise_cons.2 ⟨ihb q hqp hq, ihp⟩, ?_⟩
          intro p hp hall x hx
          rcases List.mem_cons.1 hx with rfl | hx
          · exact hall _ List.mem_cons_self
          · exact ihb p hp (fun y hy => hall y (List.mem_cons_of_mem _ hy)) x hx
  unfold pinmuxWf at *
  simp only [decide_eq_true_eq] at *
  exact (key l h).1

end Sys2Proof.Machine
end

