-- ==== Sys2Proof/Laws/Ops.lean ====
section
/-! SUPPORT. What the sequencer does: micro-steps the counter neither feeds nor reads can be run first and the
TICKs afterwards (R71). -/

namespace Sys2Proof.Machine

/-- Micro-steps that touch nothing the counter reads or writes. -/
def MicroOp.neutral : MicroOp → Bool
  | .csEnter | .csExit | .setInitialized | .afSelect _ _ | .setAssigned _ _ | .reply | .replyData | .raise _ => true
  | .load r         => r != .cnt
  | .modify r _ _   => r == .ccmr1 || r == .ccmr2 || r == .ccer
  | .store r _      => r == .ccmr1 || r == .ccmr2 || r == .ccer
  | .clkEnable | .peripheralReset => false

/-- Micro-steps run without any TICK between them. -/
def runUntimed : List MicroOp → Word → State → State
  | [], _, s => s
  | op :: ops, w, s => runUntimed ops (op.run w s).1 (op.run w s).2

/-- No micro-step touches the inputs, the schedule or the configuration. -/
theorem MicroOp.run_ports (op : MicroOp) (w : Word) (s : State) :
    (op.run w s).2.inputs = s.inputs ∧ (op.run w s).2.schedule = s.schedule ∧ (op.run w s).2.cfg = s.cfg := by
  cases op with
  | modify r c v => cases r <;> exact ⟨rfl, rfl, rfl⟩
  | store r v => cases r <;> exact ⟨rfl, rfl, rfl⟩
  | _ => exact ⟨rfl, rfl, rfl⟩

/-- A micro-step does not look at the schedule. -/
theorem MicroOp.run_schedule (op : MicroOp) (w : Word) (s : State) (sch : List Nat) :
    op.run w { s with schedule := sch } = ((op.run w s).1, { (op.run w s).2 with schedule := sch }) := by
  cases op with
  | load r => cases r <;> rfl
  | modify r c v => cases r <;> rfl
  | store r v => cases r <;> rfl
  | _ => rfl

theorem writeReg_tick {r : Reg} (h : (r == .ccmr1 || r == .ccmr2 || r == .ccer) = true) (v : Word) (s : State) :
    writeReg r v (tick s) = tick (writeReg r v s) := by
  cases r <;> first
    | exact absurd h (by decide)
    | exact tick_comm (writeReg _ v) (fun _ _ _ _ => rfl)
        (fun _ => ⟨rfl, rfl, rfl, rfl, rfl, rfl, rfl, rfl⟩) s
    | (simp at h)

theorem readReg_tick {r : Reg} (h : (r != .cnt) = true) (s : State) : readReg r (tick s) = readReg r s := by
  cases r <;> first | (simp [readReg]; done) | exact absurd h (by decide)

/-- A neutral micro-step commutes with a TICK. -/
theorem MicroOp.run_tick {op : MicroOp} (h : op.neutral = true) (w : Word) (s : State) :
    op.run w (tick s) = ((op.run w s).1, tick (op.run w s).2) := by
  have keep : ∀ f : State → State,
      (∀ (s : State) (c p : Half) (a : ByChannel Half),
        f { s with cnt := c, psccnt := p, ccra := a } = { f s with cnt := c, psccnt := p, ccra := a }) →
      (∀ s, (f s).psc = s.psc ∧ (f s).arr = s.arr ∧ (f s).ccr = s.ccr ∧ (f s).cen = s.cen ∧
        (f s).clken = s.clken ∧ (f s).cnt = s.cnt ∧ (f s).psccnt = s.psccnt ∧ (f s).ccra = s.ccra) →
      f (tick s) = tick (f s) := fun f hf hk => tick_comm f hf hk s
  cases op with
  | clkEnable => exact absurd h (by decide)
  | peripheralReset => exact absurd h (by decide)
  | load r => exact Prod.ext (readReg_tick h s) rfl
  | modify r c v => exact Prod.ext rfl (writeReg_tick h _ s)
  | store r v => exact Prod.ext rfl (writeReg_tick h _ s)
  | csEnter => exact Prod.ext rfl (keep Machine.csEnter (fun _ _ _ _ => rfl) fun _ => by simp)
  | csExit => exact Prod.ext rfl (keep Machine.csExit (fun _ _ _ _ => rfl) fun _ => by simp)
  | setInitialized =>
    exact Prod.ext rfl (keep (fun s => { s with initialized := true }) (fun _ _ _ _ => rfl) fun _ => by simp)
  | afSelect pin sel =>
    exact Prod.ext rfl (keep (fun s => emit (.afSelect pin sel) { s with pinmux := pinmuxSet s.pinmux pin sel })
      (fun _ _ _ _ => rfl) fun _ => by simp)
  | setAssigned ch pin =>
    exact Prod.ext rfl (keep (fun s => { s with chstate := s.chstate.set ch (.assigned pin) })
      (fun _ _ _ _ => rfl) fun _ => by simp)
  | reply => exact Prod.ext rfl (keep (respond .ok 0#16) (fun _ _ _ _ => rfl) fun _ => by simp)
  | replyData => exact Prod.ext rfl (keep (respond .ok (w.setWidth 16)) (fun _ _ _ _ => rfl) fun _ => by simp)
  | raise st => exact Prod.ext rfl (keep (constructionFault st) (fun _ _ _ _ => rfl) fun _ => by simp)

theorem MicroOp.run_tickN {op : MicroOp} (h : op.neutral = true) (w : Word) (n : Nat) (s : State) :
    op.run w (tickN n s) = ((op.run w s).1, tickN n (op.run w s).2) := by
  induction n generalizing s with
  | zero => rfl
  | succ n ih => rw [tickN_succ, ih, MicroOp.run_tick h, tickN_succ]

theorem runUntimed_tickN {ops : List MicroOp} (h : ∀ op ∈ ops, op.neutral = true) (w : Word) (n : Nat) (s : State) :
    runUntimed ops w (tickN n s) = tickN n (runUntimed ops w s) := by
  induction ops generalizing w s with
  | nil => rfl
  | cons op ops ih =>
    simp only [runUntimed, MicroOp.run_tickN (h op List.mem_cons_self)]
    exact ih (fun o ho => h o (List.mem_cons_of_mem _ ho)) _ _

theorem tickN_schedule_comm (n : Nat) (s : State) (sch : List Nat) :
    { tickN n s with schedule := sch } = tickN n { s with schedule := sch } :=
  tickN_comm (fun s => { s with schedule := sch }) (fun _ _ _ _ => rfl) (fun _ => by simp) n s

/-- Neutral micro-steps: run them without TICKs, then make all the TICKs their boundaries were due (R71). -/
theorem runMicro_neutral {ops : List MicroOp} (h : ∀ op ∈ ops, op.neutral = true) (w : Word) (s : State) :
    runMicro ops w s =
      tickN (scheduledTicks ops.length s) (runUntimed ops w { s with schedule := s.schedule.drop ops.length }) := by
  induction ops generalizing w s with
  | nil => simp [runMicro, runUntimed, scheduledTicks]
  | cons op ops ih =>
    have hop := h op List.mem_cons_self
    have hrest : ∀ o ∈ ops, o.neutral = true := fun o ho => h o (List.mem_cons_of_mem _ ho)
    simp only [runMicro, runUntimed]
    rw [dueTicks_eq, MicroOp.run_tickN hop, ih hrest, MicroOp.run_schedule, MicroOp.run_schedule]
    simp only [tickN_schedule_comm, tickN_schedule, scheduledTicks]
    rw [runUntimed_tickN hrest, ← tickN_add]
    simp only [MicroOp.run_schedule op w s (s.schedule.drop (ops.length + 1)), List.length_cons]
    cases hs : s.schedule with
    | nil => simp
    | cons n rest => simp

/-- A micro-program run to the end is the last of its instants. -/
theorem microInstants_last (ops : List MicroOp) (w : Word) (s : State) :
    (microInstants ops w s).getLast? = some (runMicro ops w s) := by
  induction ops generalizing w s with
  | nil => rfl
  | cons op ops ih =>
    have h := ih (op.run w (dueTicks s)).1 (op.run w (dueTicks s)).2
    simp only [microInstants, runMicro]
    rw [List.getLast?_cons, List.getLast?_append, h]
    simp

/-- Running on from an instant at which an invariant holds: what every micro-step and every TICK keeps holds at
every instant (R34, R71). -/
theorem microInstants_all {P : State → Prop} (htick : ∀ s, P s → P (tick s))
    (hsch : ∀ s sch, P s → P { s with schedule := sch }) :
    ∀ (ops : List MicroOp), (∀ op ∈ ops, ∀ w s, P s → P (op.run w s).2) →
      ∀ w s, P s → ∀ u ∈ microInstants ops w s, P u := by
  have htickN : ∀ n s, P s → P (tickN n s) := by
    intro n
    induction n with
    | zero => exact fun s h => h
    | succ n ih => exact fun s h => ih _ (htick s h)
  intro ops
  induction ops with
  | nil => intro _ w s hs u hu; simpa [microInstants, (List.mem_singleton.1 hu)] using hs
  | cons op ops ih =>
    intro hops w s hs u hu
    rcases List.mem_cons.1 hu with rfl | hu
    · exact hs
    · rcases List.mem_append.1 hu with hu | hu
      · obtain ⟨k, _, rfl⟩ := mem_dueTrail hu
        exact htickN _ _ (hsch _ _ hs)
      · refine ih (fun o ho => hops o (List.mem_cons_of_mem _ ho)) _ _ ?_ u hu
        apply hops op List.mem_cons_self
        rw [dueTicks_eq]
        exact htickN _ _ (hsch _ _ hs)

end Sys2Proof.Machine
end

