-- ==== Sys2Proof/Laws/PerInstr.lean ====
section
/-! SUPPORT. Per command: its encoding hits a row of the opcode map, and that row's operand assembly gives the
command back (R92, R93). -/

namespace Sys2Proof.Laws.Encoding

/-- The encoding of the command is a word of a row of R92, whose operands are the command's. -/
def Statement (i : Instr) : Prop :=
  ∃ r ∈ opcodeMap, r.hits (encode i) = true ∧ assemble r.op (encode i) = i

/-- Bit by bit: a masked layout is the pattern. -/
theorem hits_of_bits {r : OpRow} {cw : CommandWord}
    (h : ∀ i < 40, (cw.getLsbD i && r.mask.getLsbD i) = r.pat.getLsbD i) : r.hits cw = true := by
  simp only [OpRow.hits, beq_iff_eq]
  apply BitVec.eq_of_getLsbD_eq; intro i hi
  simpa using h i hi

theorem init (freq : Hz) : Statement (.init freq) := by
  refine ⟨⟨.init, 0xFF00000000#40, 0x1000000000#40⟩, by decide, ?_, by simp [assemble, encode]⟩
  apply hits_of_bits; intro i hi
  simp only [encode, getLsbD_layout]
  interval_cases i <;> simp

theorem assign (ch : Channel) (pin : PinId) : Statement (.assign ch pin) := by
  refine ⟨⟨.assign, 0xF3FFFFFF00#40, 0x2000000000#40⟩, by decide, ?_, ?_⟩
  · apply hits_of_bits; intro i hi
    simp only [encode, getLsbD_layout]
    interval_cases i <;> simp
  · simp only [assemble, encode, chOf, chField_layout, Channel.ofField_field, immField_layout]
    congr 1
    apply BitVec.eq_of_getLsbD_eq; intro i hi
    have : i < 32 := by omega
    simp [hi, this]

theorem channelOnly (op : BitVec 4) (pat : CommandWord) (ch : Channel) (h : layout op 0#2 0#32 = pat) (o : Op) :
    (⟨o, 0xF3FFFFFFFF#40, pat⟩ : OpRow).hits (layout op ch.field 0#32) = true := by
  subst h
  apply hits_of_bits; intro i hi
  simp only [getLsbD_layout]
  interval_cases i <;> simp

theorem enable (ch : Channel) : Statement (.enable ch) :=
  ⟨⟨.enable, 0xF3FFFFFFFF#40, 0x3000000000#40⟩, by decide, channelOnly _ _ ch (by decide) _,
    by simp [assemble, encode, chOf]⟩

theorem disable (ch : Channel) : Statement (.disable ch) :=
  ⟨⟨.disable, 0xF3FFFFFFFF#40, 0x4000000000#40⟩, by decide, channelOnly _ _ ch (by decide) _,
    by simp [assemble, encode, chOf]⟩

theorem getDuty (ch : Channel) : Statement (.getDuty ch) :=
  ⟨⟨.getDuty, 0xF3FFFFFFFF#40, 0x5000000000#40⟩, by decide, channelOnly _ _ ch (by decide) _,
    by simp [assemble, encode, chOf]⟩

theorem setDuty (ch : Channel) (value : Half) : Statement (.setDuty ch value) := by
  refine ⟨⟨.setDuty, 0xF3FFFF0000#40, 0x6000000000#40⟩, by decide, ?_, ?_⟩
  · apply hits_of_bits; intro i hi
    simp only [encode, getLsbD_layout]
    interval_cases i <;> simp
  · simp only [assemble, encode, chOf, chField_layout, Channel.ofField_field, immField_layout]
    congr 1
    apply BitVec.eq_of_getLsbD_eq; intro i hi
    have : i < 32 := by omega
    simp [hi, this]

theorem getMaxDuty (ch : Channel) : Statement (.getMaxDuty ch) :=
  ⟨⟨.getMaxDuty, 0xF3FFFFFFFF#40, 0x7000000000#40⟩, by decide, channelOnly _ _ ch (by decide) _,
    by simp [assemble, encode, chOf]⟩

end Sys2Proof.Laws.Encoding
end

