-- ==== Sys2Proof/Tests/Slice0.lean ====
section
/-! SUPPORT. Tests. Every expected result is a vector of spec/95_test_vectors.md or a number of the rule named, never
the model's own answer. The second half shows, for each statement that has hypotheses, a case that meets them. -/

namespace Sys2Proof.Tests

open Sys2Proof Sys2Proof.Machine

/-! ### States of the vectors, by helper -/

/-- The rows of test configuration T0 (spec/95_test_vectors.md). -/
def t0Rows : List BindRow :=
  [⟨0#8, .c1, 2#4⟩, ⟨1#8, .c2, 2#4⟩, ⟨2#8, .c3, 2#4⟩, ⟨3#8, .c4, 2#4⟩, ⟨5#8, .c1, 5#4⟩, ⟨7#8, .c1, 4#4⟩, ⟨7#8, .c2, 4#4⟩]

/-- Configuration T0 with a clock. -/
def t0 (clk : Hz) : Params := ⟨clk, t0Rows, 0x10000000⟩

/-- Reset state at a clock. -/
def fresh (clk : Hz) : State := { State.reset with cfg := t0 clk }

/-- After `INIT 1000` at 32 MHz, every channel Unassigned (start of section 2.4). -/
def running : State :=
  { fresh 32000000#32 with arr := 0x7D00#16, cen := true, clken := true, initialized := true }

/-- A channel assigned a pin that its row routes with a selector. -/
def bound (ch : Channel) (pin : PinId) (sel : AfSel) (s : State) : State :=
  { s with chstate := s.chstate.set ch (.assigned pin), pinmux := pinmuxSet s.pinmux pin sel }

/-- Start of section 2.3: all four channels assigned. -/
def ready : State := bound .c4 3#8 2#4 (bound .c3 2#8 2#4 (bound .c2 1#8 2#4 (bound .c1 0#8 2#4 running)))

/-- A channel's fields as ENABLE leaves them. -/
def lit (ch : Channel) (s : State) : State :=
  { s with ocpe := s.ocpe.set ch true, ocm := s.ocm.set ch 0b110#3, cce := s.cce.set ch true }

/-- The toy timer of VT1: `PSC = 0`, `ARR = 4`, running from 0. -/
def toy : State := { ready with arr := 4#16 }

/-- The toy timer with channel 1 enabled and an active duty (VT4 to VT7). -/
def toyDuty (d : Half) : State := lit .c1 { toy with ccr := toy.ccr.set .c1 d, ccra := toy.ccra.set .c1 d }

/-- A halted block (after V16). -/
def stopped : State := { fresh 32000000#32 with clken := true, halt := true, fcode := 1#4 }

/-- The state a command leaves. -/
def after (i : Instr) (s : State) : Option State :=
  match exec i s with
  | .next t    => some t
  | .fault _   => none
  | .refused _ => none

/-- The last response. -/
def answer (t : Option State) : Option ResponseWord := t.bind fun u => (responses u).head?

/-- Response of a step whose oldest input is the word. -/
def answerOf (cw : CommandWord) (s : State) : Option ResponseWord :=
  match step (placeCommand cw s) with
  | .next t    => (responses t).head?
  | .fault _   => none
  | .refused _ => none

/-- The sequence of a value over `n` TICKs, before each. -/
def trace {α : Type} (f : State → α) : Nat → State → List α
  | 0, _ => []
  | n + 1, s => f s :: trace f n (tick s)

/-! ### WellFormed refuses (R93, R64, R191) -/

theorem test_illformed_freq : (SourceCommand.wellFormed (.init 4294967296), SourceCommand.toInstr? (.init 4294967296)) = (false, none) := by decide

theorem test_illformed_assign_channel : (SourceCommand.wellFormed (.assign 0 6), SourceCommand.toInstr? (.assign 0 6)) = (false, none) := by decide

theorem test_illformed_assign_pin : (SourceCommand.wellFormed (.assign 1 256), SourceCommand.toInstr? (.assign 1 256)) = (false, none) := by decide

theorem test_illformed_enable_channel : (SourceCommand.wellFormed (.enable 5), SourceCommand.toInstr? (.enable 5)) = (false, none) := by decide

theorem test_illformed_disable_channel : (SourceCommand.wellFormed (.disable 0), SourceCommand.toInstr? (.disable 0)) = (false, none) := by decide

theorem test_illformed_getDuty_channel : (SourceCommand.wellFormed (.getDuty 5), SourceCommand.toInstr? (.getDuty 5)) = (false, none) := by decide

theorem test_illformed_setDuty_channel : (SourceCommand.wellFormed (.setDuty 0 1), SourceCommand.toInstr? (.setDuty 0 1)) = (false, none) := by decide

theorem test_illformed_setDuty_value : (SourceCommand.wellFormed (.setDuty 1 65536), SourceCommand.toInstr? (.setDuty 1 65536)) = (false, none) := by decide

theorem test_illformed_getMaxDuty_channel : (SourceCommand.wellFormed (.getMaxDuty 5), SourceCommand.toInstr? (.getMaxDuty 5)) = (false, none) := by decide

theorem test_wellformed_limits : (SourceCommand.toInstr? (.init 4294967295), SourceCommand.toInstr? (.assign 4 255),
    SourceCommand.toInstr? (.setDuty 1 65535)) =
  (some (.init 0xFFFFFFFF#32), some (.assign .c4 255#8), some (.setDuty .c1 65535#16)) := by decide

/-- "A model rejects a configuration whose `BASE` is not a multiple of 4" (R64). -/
theorem test_base_not_word_aligned : Params.make? 1#32 t0Rows 2 = none := by decide

/-- Two selectors for one pair (R191). -/
theorem test_bind_two_selectors : Params.make? 1#32 [⟨7#8, .c1, 4#4⟩, ⟨7#8, .c1, 5#4⟩] 4 = none := by decide

theorem test_base_and_bind_taken : (Params.make? 1#32 t0Rows 0x40000000).map Params.base = some 0x40000000 := by decide

/-! ### Decoding: words written out from R92 (vectors VE1 to VE26) -/

theorem test_decode_init : decodeTableWord 40 0x10000003E8 = some (.init 1000#32) := by decide

theorem test_decode_init_max : decodeTableWord 40 0x10FFFFFFFF = some (.init 0xFFFFFFFF#32) := by decide

theorem test_decode_assign : decodeTableWord 40 0x2400000006 = some (.assign .c2 6#8) := by decide

theorem test_decode_assign_255 : decodeTableWord 40 0x2C000000FF = some (.assign .c4 255#8) := by decide

theorem test_decode_enable : decodeTableWord 40 0x3C00000000 = some (.enable .c4) := by decide

theorem test_decode_enable_c2 : decodeTableWord 40 0x3400000000 = some (.enable .c2) := by decide

theorem test_decode_disable : decodeTableWord 40 0x4800000000 = some (.disable .c3) := by decide

theorem test_decode_getDuty : decodeTableWord 40 0x5000000000 = some (.getDuty .c1) := by decide

theorem test_decode_setDuty : decodeTableWord 40 0x6000003E80 = some (.setDuty .c1 16000#16) := by decide

theorem test_decode_setDuty_c3 : decodeTableWord 40 0x680000FFFF = some (.setDuty .c3 65535#16) := by decide

theorem test_decode_getMaxDuty : decodeTableWord 40 0x7400000000 = some (.getMaxDuty .c2) := by decide

theorem test_illegal_op0 : decode 0x0000000000#40 = .error .reservedOpcode := by decide

theorem test_illegal_op8 : decode 0x8000000000#40 = .error .reservedOpcode := by decide

theorem test_illegal_opF : decode 0xF000000000#40 = .error .reservedOpcode := by decide

theorem test_illegal_rsv : decode 0x3100000000#40 = .error .reservedBits := by decide

theorem test_illegal_init_rsv : decode 0x1200000064#40 = .error .reservedBits := by decide

theorem test_illegal_init_channel : decode 0x1400000064#40 = .error .channelInInit := by decide

theorem test_illegal_enable_imm : decode 0x3000000001#40 = .error .immediateNotZero := by decide

theorem test_illegal_getMaxDuty_imm : decode 0x7400000001#40 = .error .immediateNotZero := by decide

theorem test_illegal_pin256 : decode 0x2000000100#40 = .error .pinTooWide := by decide

theorem test_illegal_duty65536 : decode 0x6000010000#40 = .error .dutyTooWide := by decide

theorem test_response_words : [responseWord .ok 16000#16, responseWord .unrepresentable 0#16, responseWord .halted 0#16] =
    [0x03E80#20, 0x20000#20, 0xA0000#20] := by decide

/-! ### Text form (R98) -/

theorem test_text_setDuty : assembleLine ['S', 'E', 'T', '_', 'D', 'U', 'T', 'Y', ' ', 'c', '1', ',', ' ', '1', '6', '0', '0', '0'] = some 0x6000003E80#40 := by decide

theorem test_text_init_hex : assembleLine ['I', 'N', 'I', 'T', ' ', '0', 'x', '3', 'E', '8', ' ', ';', 'x'] = some 0x10000003E8#40 := by decide

theorem test_text_lower_case : assembleLine ['e', 'n', 'a', 'b', 'l', 'e', ' ', 'c', '1'] = none := by decide

theorem test_text_channel_5 : assembleLine ['E', 'N', 'A', 'B', 'L', 'E', ' ', 'c', '5'] = none := by decide

/-! ### INIT (section 2.1) -/

theorem test_init_V1 : (after (.init 1000#32) (fresh 32000000#32)).map (fun t => (t.psc, t.arr, readReg .cr1 t, t.initialized, t.outputs)) =
    some (0x0000#16, 0x7D00#16, 1#32, true, [.response 0x00000#20, .periphResetPulse, .clkEnable]) := by decide

theorem test_init_V16 : (after (.init 0#32) (fresh 32000000#32)).map (fun t => (t.arr, [t.clken, t.cen, t.halt], t.fcode, responses t)) =
    some (0xFFFF#16, [true, false, true], 1#4, [0x10000#20]) := by decide

theorem test_synthesis_V2 : (synthesise 32000000#32 1#32) = .ok (0x01E8#16, 0xFF9F#16) := by decide

theorem test_synthesis_V10 : (synthesise 65537#32 1#32) = .ok (0x0001#16, 0x8000#16) := by decide

theorem test_synthesis_V14 : (synthesise 4294967295#32 1#32) = .ok (0xFFFF#16, 0xFFFF#16) := by decide

theorem test_synthesis_V8 : synthesise 65536#32 1#32 = .error .unrepresentable := by decide

theorem test_synthesis_V9 : synthesise 999#32 1000#32 = .error .unrepresentable := by decide

/-! ### Channel commands (section 2.3) -/

theorem test_enable_VC4 : (after (.enable .c4) ready).map (fun t => (readReg .ccmr1 t, readReg .ccmr2 t, readReg .ccer t)) =
    some (0#32, 0x6800#32, 0x1000#32) := by decide

theorem test_enable_VC20 : (after (.enable .c2) (lit .c1 ready)).map (fun t => (readReg .ccmr1 t, readReg .ccer t, t.irqMask)) =
    some (0x6868#32, 0x0011#32, false) := by decide

theorem test_disable_VC9 : (after (.disable .c2) (lit .c3 (lit .c2 (lit .c1 ready)))).map (fun t => (readReg .ccmr1 t, readReg .ccer t)) =
    some (0x6868#32, 0x0101#32) := by decide

theorem test_disable_VC21 : (after (.disable .c1) { lit .c1 ready with irqMask := true }).map (fun t => (t.irqMask, t.irqSave)) =
    some (true, true) := by decide

theorem test_getDuty_VC16 : answer (after (.getDuty .c1) { lit .c1 ready with ccr := ready.ccr.set .c1 100#16 }) = some 0x00064#20 := by decide

theorem test_setDuty_VC13 : (after (.setDuty .c1 32001#16) ready).map (fun t => (t.ccr.c1, t.ccra.c1, t.ccr.c2)) =
    some (0x7D01#16, 0x7D01#16, 0#16) := by decide

theorem test_setDuty_VC15 : (after (.setDuty .c1 100#16) (lit .c1 ready)).map (fun t => (t.ccr.c1, t.ccra.c1)) = some (100#16, 0#16) := by decide

theorem test_getMaxDuty_VC17 : answer (after (.getMaxDuty .c3) ready) = some 0x07D00#20 := by decide

theorem test_getMaxDuty_VC24 : answer (after (.getMaxDuty .c2) (bound .c1 0#8 2#4 running)) = some 0x60000#20 := by decide

/-! ### ASSIGN (section 2.4) -/

theorem test_assign_VA4 : (after (.assign .c1 5#8) running).map (fun t => (t.chstate.c1, t.outputs, pinmuxGet t.pinmux 5#8)) =
    some (.assigned 5#8, [.response 0x00000#20, .afSelect 5#8 5#4], some 5#4) := by decide

theorem test_assign_VA7 : answer (after (.assign .c2 7#8) (bound .c1 7#8 4#4 running)) = some 0x90000#20 := by decide

/-! ### Counter and outputs (section 2.5) -/

theorem test_counter_VT2 : trace (fun s => (s.psccnt, s.cnt)) 8 { toy with psc := 1#16, arr := 2#16 } =
    [(0#16, 0#16), (1#16, 0#16), (0#16, 1#16), (1#16, 1#16), (0#16, 2#16), (1#16, 2#16), (0#16, 0#16), (1#16, 0#16)] := by decide

theorem test_counter_VT3 : tick { toy with cen := false } = { toy with cen := false } := rfl

theorem test_output_VT4 : trace (oc .c1) 10 (toyDuty 2#16) = [true, true, false, false, false, true, true, false, false, false] := by decide

theorem test_output_VT6_VT7 : (trace (oc .c1) 5 (toyDuty 4#16), trace (oc .c1) 5 (toyDuty 5#16)) =
    ([true, true, true, true, false], [true, true, true, true, true]) := by decide

theorem test_output_VT9 : (after (.setDuty .c1 4#16) (tick (toyDuty 2#16))).map (fun t => trace (oc .c1) 9 t) =
    some [true, false, false, false, true, true, true, true, false] := by decide

/-! ### Order of faults and refusals (section 2.6) -/

theorem test_order_VX1 : answerOf 0x0000000000#40 stopped = some 0xA0000#20 := by decide

theorem test_order_VX2 : answerOf 0x3100000000#40 (fresh 1#32) = some 0x30000#20 := by decide

theorem test_order_VX4 : answer (after (.assign .c1 9#8) (bound .c1 0#8 2#4 running)) = some 0x70000#20 := by decide

theorem test_order_VX7 : answer (after (.init 0#32) (fresh 0#32)) = some 0x10000#20 := by decide

theorem test_first_code_VX9 : (after (.init 0#32) { fresh 1#32 with fcode := 4#4 }).map (fun t => (t.fcode, t.halt)) = some (4#4, true) := by decide

theorem test_reset_VX10 : (match step { stopped with inputs := [.hardwareReset] } with
    | .next t => (t.fcode, t.halt, t.arr, t.clken)
    | _ => (0xF#4, true, 0#16, true)) = (0#4, false, 0xFFFF#16, false) := by decide

theorem test_fetch_word_too_wide : (decodeTableWord 48 0x013000000000, decode (tableCommand 48 0x013000000000)) =
    (none, .error .reservedOpcode) := by decide

theorem test_fetch_word : answerOf 0x3000000000#40 (fresh 1#32) = some 0x40000#20 := by decide

/-! ### Cases that meet the hypotheses of the statements -/

/-- Encoding: a word of a row, and one of none (R92, R95). -/
theorem meets_DecodedWordIsTheEncodingOfItsCommand : decode 0x6000003E80#40 = .ok (.setDuty .c1 16000#16) := by decide

theorem meets_AtMostOneRowMatchesAWord : ∃ r ∈ opcodeMap, r.hits 0x3000000000#40 = true := by decide

theorem meets_DecodeFollowsTheMatchingRow :
    (∃ r ∈ opcodeMap, 0x7C00000000#40 &&& r.mask = r.pat) ∧ (∀ r ∈ opcodeMap, 0x8000000000#40 &&& r.mask ≠ r.pat) := by
  decide

/-- Each clause of the list of illegal words, at a boundary of its range. -/
theorem meets_IllegalWords_clauses :
    [0x0FFFFFFFFF#40, 0x8000000000#40, 0xF000000000#40, 0x3100000000#40, 0x1400000000#40, 0x3000000001#40, 0x4000000001#40,
      0x5000000001#40, 0x7080000000#40, 0x2000000100#40, 0x6000010000#40].map (fun cw => (decode cw).toOption) =
    List.replicate 11 none := by decide

theorem meets_IllegalWords_refused :
    { fresh 1#32 with inputs := [.command 0#40] }.inputs = .command 0#40 :: [] ∧
    decode 0#40 = .error .reservedOpcode ∧ (fresh 1#32).halt = false ∧ stopped.halt = true := by decide

theorem meets_SourceOperandsInRangeAreKept :
    SourceCommand.toInstr? (.assign 4 255) = some (.assign .c4 255#8) ∧ SourceCommand.toInstr? (.assign 4 256) = none := by
  decide

/-- Steps: each kind of input at the head of the queue. -/
theorem meets_StepRunsTheDecodedCommand :
    (placeCommand 0x3000000000#40 ready).inputs = .command 0x3000000000#40 :: [] ∧
    decode 0x3000000000#40 = .ok (.enable .c1) := by decide

theorem meets_StepOnTicksMaskAndIdle :
    ready.inputs = [] ∧ { ready with inputs := [.tick] }.inputs = .tick :: [] ∧
    { ready with inputs := [.setIrqMask true] }.inputs = .setIrqMask true :: [] := by decide

theorem meets_HardwareReset_first : { stopped with inputs := [.hardwareReset] }.inputs = .hardwareReset :: [] := rfl

theorem meets_HardwareReset_second :
    (∀ rest, { ready with fcode := 4#4 }.inputs ≠ .hardwareReset :: rest) ∧
    step { ready with fcode := 4#4 } = .next (tick { ready with fcode := 4#4 }) ∧
    ready.initialized = true ∧ ready.clken = true ∧ ready.chstate.get .c1 = .assigned 0#8 ∧
    step stopped = .next stopped ∧ stopped.halt = true := by
  exact ⟨nofun, rfl, rfl, rfl, rfl, rfl, rfl⟩

theorem meets_EveryCommandWordIsAnsweredOnce : (placeCommand 0#40 ready).inputs = .command 0#40 :: [] := rfl

/-- A command of each outcome of R240 answers a next state. -/
theorem meets_FirstNonOkStatusStays :
    (answer (after (.getMaxDuty .c1) ready), answer (after (.init 0#32) (fresh 1#32)),
      answer (after (.enable .c1) (fresh 1#32))) = (some 0x07D00#20, some 0x10000#20, some 0x40000#20) := by decide

theorem meets_RefusalChangesOnlyTheCode : planOf (.enable .c1) (fresh 1#32) = .error .notInitialized ∧ decode 0#40 = .error .reservedOpcode := by decide

/-- Both kinds of construction fault, at the boundaries `ticks = 0` and `ticks = 65536`, and the halted block. -/
theorem meets_ConstructionFaultHaltsTheBlock :
    (fresh 65536#32).halt = false ∧ (fresh 65536#32).initialized = false ∧
    ((fresh 65536#32).cfg.clkHz.toNat / (1#32 : Hz).toNat) % 65536 = 0 ∧
    ((fresh 999#32).cfg.clkHz.toNat / (1000#32 : Hz).toNat) % 65536 = 0 ∧ stopped.halt = true ∧
    stopped.fcode ≠ 0#4 := by decide

theorem meets_NonOkCommandsArePrecise :
    answer (after (.init 1#32) (fresh 65536#32)) = some 0x20000#20 ∧
    answer (after (.assign .c1 9#8) running) = some 0x80000#20 := by decide

/-- INIT at both ends of the range of `ticks` in which it succeeds. -/
theorem meets_InitSetsUpAndStartsTheTimer :
    (fresh 1#32).halt = false ∧ (fresh 1#32).initialized = false ∧
    ((fresh 1#32).cfg.clkHz.toNat / (1#32 : Hz).toNat) % 65536 ≠ 0 ∧
    ((fresh 65535#32).cfg.clkHz.toNat / (1#32 : Hz).toNat) % 65536 ≠ 0 ∧
    ((fresh 0xFFFFFFFF#32).cfg.clkHz.toNat / (1#32 : Hz).toNat) % 65536 ≠ 0 := by decide

theorem meets_InitIsAdmittedOnce :
    (fresh 1#32).halt = false ∧ (fresh 1#32).initialized = false ∧ stopped.halt = true ∧ running.halt = false ∧ running.initialized = true := by decide

theorem meets_SynthesisSucceedsExactlyWhen :
    synthesise 65535#32 1#32 = .ok (0#16, 65535#16) ∧ synthesise 65536#32 1#32 = .error .unrepresentable ∧
    synthesise 65537#32 1#32 = .ok (1#16, 32768#16) ∧ synthesise 0#32 5#32 = .error .unrepresentable := by decide

theorem meets_OutputFrequencyIsStrictlyLower : synthesise 1000#32 1000#32 = .ok (0#16, 1#16) := by decide

/-- A channel command is admitted on every channel. -/
theorem meets_channelAdmitted : ∀ ch : Channel, channelAdmitted ch ready := by
  intro ch; cases ch <;> exact ⟨rfl, rfl, _, rfl⟩

/-- The three refusals of R150, one state each. -/
theorem meets_refusedByAdmission :
    stopped.halt = true ∧ (fresh 1#32).halt = false ∧ (fresh 1#32).initialized = false ∧
    running.halt = false ∧ running.initialized = true ∧ running.chstate.get .c4 = .unassigned := by decide

theorem meets_EnableSetsPreloadModeAndEnable : channelAdmitted .c1 ready := meets_channelAdmitted .c1
theorem meets_DisableClearsTheEnableBit : channelAdmitted .c4 (lit .c4 ready) := ⟨rfl, rfl, _, rfl⟩
theorem meets_GetDutyAnswersThePreloadValue : channelAdmitted .c2 ready := meets_channelAdmitted .c2
theorem meets_SetDutyStoresTheValue : channelAdmitted .c3 ready ∧ channelAdmitted .c3 (lit .c3 ready) :=
  ⟨⟨rfl, rfl, _, rfl⟩, ⟨rfl, rfl, _, rfl⟩⟩
theorem meets_GetMaxDutyAnswersTheReload : channelAdmitted .c4 ready := meets_channelAdmitted .c4
theorem meets_SetDutyThenGetDutyReturnsIt : channelAdmitted .c1 (lit .c1 ready) := ⟨rfl, rfl, _, rfl⟩
theorem meets_EnableAndDisableConverge : channelAdmitted .c1 ready := meets_channelAdmitted .c1

theorem meets_CommandsKeepTheOtherChannels :
    commandChannel (.enable .c3) = some .c3 ∧ Channel.c4 ≠ .c3 ∧ (after (.enable .c3) ready).isSome = true := by decide

theorem meets_CommandsForDifferentChannelsCommute :
    channelCommand (.setDuty .c1 5#16) = some .c1 ∧ channelCommand (.enable .c2) = some .c2 ∧
    channelAdmitted .c1 ready ∧ channelAdmitted .c2 ready :=
  ⟨rfl, rfl, meets_channelAdmitted .c1, meets_channelAdmitted .c2⟩

theorem meets_ChannelCommandsKeepLifecycleAndPeriod :
    channelCommand (.disable .c2) = some .c2 ∧ (after (.disable .c2) ready).isSome = true := by decide

theorem meets_FrequencyIsFixedAfterInit :
    ready.initialized = true ∧ (∀ rest, ready.inputs ≠ .hardwareReset :: rest) ∧ step ready = .next (tick ready) :=
  ⟨rfl, nofun, rfl⟩

theorem meets_CommandsRestoreTheInterruptMask :
    (after (.enable .c1) ready).map (·.irqMask) = some false ∧
    (after (.enable .c1) { ready with irqMask := true }).map (·.irqMask) = some true := by decide

/-- ENABLE has instants with the mask clear, before and after its section. -/
theorem meets_NoHandlerSeesAHalfConfiguredChannel :
    (instants (.enable .c1) ready).map (·.irqMask) =
      [false, false, true, true, true, true, true, true, true, true, true, true, false, false, false] := by decide

theorem meets_AssignRoutesThePinAndBindsTheChannel :
    running.halt = false ∧ running.initialized = true ∧ running.chstate.get .c1 = .unassigned ∧
    bindLookup running.cfg 0#8 .c1 = some 2#4 ∧ ∀ c, running.chstate.get c ≠ .assigned 0#8 :=
  ⟨rfl, rfl, rfl, by decide, fun c => by cases c <;> decide⟩

/-- The five refusals of ASSIGN, one state each. -/
theorem meets_AssignRefusalsInOrder :
    stopped.halt = true ∧ (fresh 1#32).initialized = false ∧ ready.chstate.get .c1 = .assigned 0#8 ∧
    (running.chstate.get .c1 = .unassigned ∧ bindLookup running.cfg 9#8 .c1 = none) ∧
    ((bound .c1 7#8 4#4 running).chstate.get .c2 = .unassigned ∧ bindLookup running.cfg 7#8 .c2 = some 4#4 ∧
      (bound .c1 7#8 4#4 running).chstate.get .c1 = .assigned 7#8) := by decide

theorem meets_PinRecordReadsAsWritten : pinmuxWf ready.pinmux = true ∧ ready.pinmux ≠ [] := by decide

/-- Two instances: the first owns pin 7 on channel 1, the second is asked for it. -/
theorem meets_InstancesShareOnlyTheOwnedPins :
    let s := placeCommand 0x2400000007#40 running
    let u := bound .c1 7#8 4#4 running
    (⟨[u, s]⟩ : System).timers[1]? = some s ∧ (⟨[u, s]⟩ : System).timers[0]? = some u ∧
    s.inputs = .command 0x2400000007#40 :: [] ∧ decode 0x2400000007#40 = .ok (.assign .c2 7#8) ∧ s.halt = false ∧
    s.initialized = true ∧ s.chstate.get .c2 = .unassigned ∧ bindLookup s.cfg 7#8 .c2 = some 4#4 ∧
    u.chstate.get .c1 = .assigned 7#8 ∧ (systemStep 0 ⟨[u, s]⟩).isSome = true :=
  ⟨rfl, rfl, rfl, by decide, rfl, rfl, rfl, by decide, rfl, rfl⟩

/-- Systems that agree in instance 1 and in the pins owned elsewhere, and differ in what instance 0 otherwise holds; and
a system with no pin owned elsewhere. -/
theorem meets_InstancesShareOnlyTheOwnedPins_reads :
    (⟨[toy, running]⟩ : System).timers[1]? = (⟨[ready, running]⟩ : System).timers[1]? ∧
    (∀ pin, ownedElsewhere ⟨[toy, running]⟩ 1 pin = ownedElsewhere ⟨[ready, running]⟩ 1 pin) ∧ toy ≠ ready ∧
    (∀ pin, ownedElsewhere ⟨[running, ready]⟩ 1 pin = false) :=
  ⟨rfl, fun _ => rfl, fun h => absurd (congrArg State.arr h) (by decide), fun _ => rfl⟩

/-- Each clause of a TICK: stopped, prescaling, counting up to `ARR`, wrapping at it. -/
theorem meets_TickStepsPrescalerAndCounter :
    (fresh 1#32).clken = false ∧ (toy.clken = true ∧ toy.cen = true) ∧
    ({ toy with psc := 1#16 }.psccnt.toNat < { toy with psc := 1#16 }.psc.toNat) ∧
    (toy.psc.toNat ≤ toy.psccnt.toNat ∧ { toy with cnt := 3#16 }.cnt.toNat < toy.arr.toNat) ∧
    (toy.arr.toNat ≤ { toy with cnt := 4#16 }.cnt.toNat) := by decide

/-- From the start of a period, with the last TICK of the period and the one after it: the active values change between
them. -/
theorem meets_CounterPositionAfterTicks :
    (toy.clken = true ∧ toy.cen = true ∧ toy.cnt = 0#16 ∧ toy.psccnt = 0#16) ∧
    (toy.psc.toNat + 1) * (toy.arr.toNat + 1) = 5 ∧
    ((tickN 4 { toy with ccr := toy.ccr.set .c1 3#16 }).cnt, (tickN 4 { toy with ccr := toy.ccr.set .c1 3#16 }).ccra.c1) =
      (4#16, 0#16) ∧
    ((tickN 5 { toy with ccr := toy.ccr.set .c1 3#16 }).cnt, (tickN 5 { toy with ccr := toy.ccr.set .c1 3#16 }).ccra.c1) =
      (0#16, 3#16) := by decide

theorem meets_EnabledOutputIsHighForItsDuty :
    (toyDuty 2#16).clken = true ∧ (toyDuty 2#16).cen = true ∧ (toyDuty 2#16).cnt = 0#16 ∧
    (toyDuty 2#16).psccnt = 0#16 ∧ (toyDuty 2#16).cce.get .c1 = true ∧ (toyDuty 2#16).ocm.get .c1 = 0b110#3 := by
  decide

/-- The duty at the two sides of constant high: `d = ARR` and `d = ARR + 1`. -/
theorem meets_EnabledOutput_boundary :
    ((toyDuty 4#16).ccra.get .c1).toNat = (toyDuty 4#16).arr.toNat ∧
    ((toyDuty 5#16).ccra.get .c1).toNat = (toyDuty 5#16).arr.toNat + 1 := by decide

/-- At the start of a period, inside one with TICKs inside the command, and on its last TICK. -/
theorem meets_PreloadedDutyLandsAtTheUpdateEvent :
    ∀ s ∈ [toyDuty 2#16, { toyDuty 2#16 with cnt := 1#16, schedule := [1, 2] }, { toyDuty 2#16 with cnt := 4#16 }],
      channelAdmitted .c1 s ∧ s.ocpe.get .c1 = true ∧ s.clken = true ∧ s.cen = true ∧ s.cnt ≤ s.arr ∧
      s.psccnt ≤ s.psc := by
  intro s hs
  simp only [List.mem_cons, List.not_mem_nil, or_false] at hs
  rcases hs with rfl | rfl | rfl <;> exact ⟨⟨rfl, rfl, _, rfl⟩, rfl, rfl, rfl, by decide, by decide⟩

/-- TICKs to the update event of VT1 and VT2, from the start of a period and on its last TICK. -/
theorem test_ticksToUpdate_VT1_VT2 :
    (ticksToUpdate toy, ticksToUpdate { toy with cnt := 4#16 }, ticksToUpdate { toy with psc := 1#16, arr := 2#16 }) =
      (5, 1, 6) := by decide

/-- The comparison at its boundary: `CNT = CCRA - 1` and `CNT = CCRA`; and a disabled channel. -/
theorem meets_OutputFollowsTheComparison :
    (oc .c1 { toyDuty 2#16 with cnt := 1#16 }, oc .c1 { toyDuty 2#16 with cnt := 2#16 }) = (true, false) ∧
    (toyDuty 2#16).cce.get .c1 = true ∧ (toyDuty 2#16).ocm.get .c1 = 0b110#3 ∧ toy.cce.get .c1 = false := by decide

/-- The toy timer with channel 1 enabled meets the whole invariant. -/
theorem toyDuty_inv : BlockInv (toyDuty 2#16) where
  enabledIsPwm1 ch h := by cases ch <;> first | exact ⟨rfl, rfl⟩ | cases h
  preloadOffFollows ch h := by cases ch <;> rfl
  assignedBound ch p h := by cases ch <;> cases h <;> exact ⟨rfl, by decide⟩
  pinsDistinct ch ch' p h h' := by cases ch <;> cases ch' <;> first | rfl | (cases h; cases h')
  startedIffInitialized := rfl
  initializedRuns _ := ⟨rfl, by decide, rfl⟩
  enabledAssigned ch _ := by cases ch <;> exact ⟨_, rfl⟩
  haltHasCode h := by cases h
  codeProduced := by decide
  counterInPeriod := by decide
  assignedRouted ch p h := by cases ch <;> cases h <;> decide
  pinmuxCanonical := by decide

theorem meets_HighOutputHasARoutedPin : BlockInv (toyDuty 2#16) ∧ oc .c1 (toyDuty 2#16) = true :=
  ⟨toyDuty_inv, by decide⟩

/-- Two states that differ in what TICKs write, and in the schedule. -/
theorem meets_TicksAreInvisibleToRequesters :
    withoutCounter { toyDuty 2#16 with cnt := 3#16, schedule := [5] } = withoutCounter (toyDuty 2#16) ∧
    { toyDuty 2#16 with cnt := 3#16, schedule := [5] } ≠ toyDuty 2#16 :=
  ⟨rfl, fun h => absurd (congrArg State.cnt h) (by decide)⟩

/-- Addresses just below the block, just above it, and inside a word of it. -/
theorem meets_BusReachesExactlyTheRegisterMap :
    (0x3FFFFFFF < ready.cfg.base) ∧ (ready.cfg.base + 0x43 < 0x40000044) ∧ (0x40000002 % 4 ≠ 0) := by decide

theorem meets_RegisterWordReadsAsWritten : Reg.ccr .c2 ≠ Reg.ccr .c1 := by decide

theorem meets_CommandsStoreOnlyToTheirRegisters :
    storedAddresses (.enable .c1) ready = [0x40000018, 0x40000020] ∧
    storedAddresses (.setDuty .c4 1#16) ready = [0x40000040] ∧ storedAddresses (.getDuty .c1) ready = [] ∧
    (after (.enable .c1) ready).isSome = true := by decide

theorem meets_EveryStepKeepsTheInvariant : BlockInv (toyDuty 2#16) ∧ step (toyDuty 2#16) = .next (tick (toyDuty 2#16)) :=
  ⟨toyDuty_inv, rfl⟩

theorem meets_InstantsKeepTheInvariant : BlockInv (toyDuty 2#16) ∧ ∃ t, exec (.disable .c1) (toyDuty 2#16) = .next t :=
  ⟨toyDuty_inv, _, rfl⟩

/-- Commands for another channel that are admitted and refused, an ASSIGN of another pin among them. -/
theorem meets_AssignCommutesWithOtherChannels :
    commandChannel (.assign .c2 1#8) = some .c2 ∧ Channel.c1 ≠ .c2 ∧ Instr.assign .c2 1#8 ≠ .assign .c2 7#8 ∧
    (answer (after (.assign .c1 7#8) running), answer (after (.assign .c2 1#8) running),
      answer (after (.enable .c2) running)) = (some 0x00000#20, some 0x00000#20, some 0x60000#20) := by decide

theorem meets_AssignCommutes_same_pin :
    running.halt = false ∧ running.initialized = true ∧ running.chstate.get .c1 = .unassigned ∧
    running.chstate.get .c2 = .unassigned ∧ (bindLookup running.cfg 7#8 .c1).isSome = true ∧
    (bindLookup running.cfg 7#8 .c2).isSome = true ∧ ∀ e, running.chstate.get e ≠ .assigned 7#8 :=
  ⟨rfl, rfl, rfl, rfl, by decide, by decide, fun e => by cases e <;> decide⟩

end Sys2Proof.Tests
end

section
/-! PROOFS. What a command's plan and a step can be, each said once, and the state statements that follow from the
micro-steps alone: the response and `FCODE` (R23), the interrupt mask (R31), the pin record (R32). -/

namespace Sys2Proof.Machine

/-! ### Commands and steps, inverted -/

/-- Every command runs its plan. -/
theorem exec_eq_perform (i : Instr) (s : State) : exec i s = .next (perform (planOf i s) s) := by
  cases i <;> rfl

theorem exec_eq_next_iff {i : Instr} {s t : State} : exec i s = .next t ↔ perform (planOf i s) s = t := by
  rw [exec_eq_perform, Host.Outcome.next.injEq]

/-- R150's tests find nothing exactly when the command is admitted. -/
theorem admission_eq_none_iff {ch : Channel} {s : State} : admission ch s = none ↔ channelAdmitted ch s := by
  unfold admission channelAdmitted
  cases s.halt <;> cases s.initialized <;> cases s.chstate.get ch <;> simp

/-- The micro-steps of a command that is not refused, with what its tests have established. -/
inductive OkPlan (s : State) : Instr → List MicroOp → Prop where
  /-- INIT that fails its synthesis (R120, R242). -/
  | initFault {freq : Hz} {st : Status} (hhalt : s.halt = false) (hinit : s.initialized = false)
      (hsyn : synthesise s.cfg.clkHz freq = .error st) : OkPlan s (.init freq) [.clkEnable, .peripheralReset, .raise st]
  /-- INIT that completes (R120, R128). -/
  | initDone {freq : Hz} {psc arr : Half} (hhalt : s.halt = false) (hinit : s.initialized = false)
      (hsyn : synthesise s.cfg.clkHz freq = .ok (psc, arr)) :
      OkPlan s (.init freq) [.clkEnable, .peripheralReset, .store .psc (psc.setWidth 32),
        .store .arr (arr.setWidth 32), .store .cr1 0x00000001#32, .setInitialized, .reply]
  /-- ASSIGN (R190). -/
  | assign {ch : Channel} {pin : PinId} {sel : AfSel} (hhalt : s.halt = false) (hinit : s.initialized = true)
      (hfree : s.chstate.get ch = .unassigned) (hbind : bindLookup s.cfg pin ch = some sel)
      (hpin : owned s pin = false) : OkPlan s (.assign ch pin) [.afSelect pin sel, .setAssigned ch pin, .reply]
  | enable {ch : Channel} (hadm : channelAdmitted ch s) : OkPlan s (.enable ch) (enableOps ch)
  | disable {ch : Channel} (hadm : channelAdmitted ch s) : OkPlan s (.disable ch) (disableOps ch)
  | getDuty {ch : Channel} (hadm : channelAdmitted ch s) : OkPlan s (.getDuty ch) (getDutyOps ch)
  | setDuty {ch : Channel} {d : Half} (hadm : channelAdmitted ch s) : OkPlan s (.setDuty ch d) (setDutyOps ch d)
  | getMaxDuty {ch : Channel} (hadm : channelAdmitted ch s) : OkPlan s (.getMaxDuty ch) getMaxDutyOps

theorem channelPlan_ok {ch : Channel} {s : State} {ops ops' : List MicroOp} (h : channelPlan ch s ops = .ok ops') :
    channelAdmitted ch s ∧ ops = ops' := by
  unfold channelPlan at h
  split at h
  · cases h
  · next hadm => exact ⟨admission_eq_none_iff.1 hadm, Except.ok.inj h⟩

theorem planInit_ok {freq : Hz} {s : State} {ops : List MicroOp} (h : planInit freq s = .ok ops) :
    OkPlan s (.init freq) ops := by
  unfold planInit at h
  split at h
  · cases h
  · split at h
    · cases h
    · next hhalt hinit =>
      cases h
      rw [Bool.not_eq_true] at hhalt hinit
      cases hsyn : synthesise s.cfg.clkHz freq with
      | error st => exact .initFault hhalt hinit hsyn
      | ok r => exact .initDone hhalt hinit hsyn

theorem planAssign_ok {ch : Channel} {pin : PinId} {s : State} {ops : List MicroOp}
    (h : planAssign ch pin s = .ok ops) : OkPlan s (.assign ch pin) ops := by
  unfold planAssign planAssignAmong at h
  split at h
  · cases h
  · split at h
    · cases h
    · next hhalt hinit =>
      split at h
      · cases h
      · next hfree =>
        split at h
        · cases h
        · next sel hbind =>
          split at h
          · cases h
          · next hpin =>
            cases h
            exact .assign (by simpa using hhalt) (by simpa using hinit) hfree hbind (by simpa using hpin)

/-- A plan that is not a refusal is one of the eight of `OkPlan`. -/
theorem planOf_ok {i : Instr} {s : State} {ops : List MicroOp} (h : planOf i s = .ok ops) : OkPlan s i ops := by
  cases i with
  | init freq => exact planInit_ok h
  | assign ch pin => exact planAssign_ok h
  | enable ch => obtain ⟨hadm, rfl⟩ := channelPlan_ok h; exact .enable hadm
  | disable ch => obtain ⟨hadm, rfl⟩ := channelPlan_ok h; exact .disable hadm
  | getDuty ch => obtain ⟨hadm, rfl⟩ := channelPlan_ok h; exact .getDuty hadm
  | setDuty ch d => obtain ⟨hadm, rfl⟩ := channelPlan_ok h; exact .setDuty hadm
  | getMaxDuty ch => obtain ⟨hadm, rfl⟩ := channelPlan_ok h; exact .getMaxDuty hadm

/-- One step, every case: nothing waits, or the oldest input `inp` is taken and the rest `r` acts on it. -/
theorem step_cases {s t : State} (h : step s = .next t) :
    (s.inputs = [] ∧ t = tick s) ∨
    ∃ rest, (s.inputs = .tick :: rest ∧ t = tick { s with inputs := rest }) ∨
      (s.inputs = .hardwareReset :: rest ∧ t = hardwareReset { s with inputs := rest }) ∨
      (∃ b, s.inputs = .setIrqMask b :: rest ∧ t = { s with inputs := rest, irqMask := b }) ∨
      (∃ cw i, s.inputs = .command cw :: rest ∧ decode cw = .ok i ∧
        t = perform (planOf i { s with inputs := rest }) { s with inputs := rest }) ∨
      (∃ cw why, s.inputs = .command cw :: rest ∧ decode cw = .error why ∧
        t = illegalCommand { s with inputs := rest }) := by
  unfold step stepOnce at h
  split at h
  · next hin => exact .inl ⟨hin, (Host.Outcome.next.inj h).symm⟩
  · next inp rest hin =>
    refine .inr ⟨rest, ?_⟩
    cases inp with
    | tick => exact .inl ⟨hin, (Host.Outcome.next.inj h).symm⟩
    | hardwareReset => exact .inr (.inl ⟨hin, (Host.Outcome.next.inj h).symm⟩)
    | setIrqMask b => exact .inr (.inr (.inl ⟨b, hin, (Host.Outcome.next.inj h).symm⟩))
    | command cw =>
      simp only [accept, issue] at h
      cases hd : decode cw with
      | ok i =>
        rw [hd] at h
        exact .inr (.inr (.inr (.inl ⟨cw, i, hin, hd, (exec_eq_next_iff.1 h).symm⟩)))
      | error why =>
        rw [hd] at h
        exact .inr (.inr (.inr (.inr ⟨cw, why, hin, hd, (Host.Outcome.next.inj h).symm⟩)))

/-! ### The response and `FCODE` -/

/-- `t` has given one response more than `s`, and its `FCODE` is that response's status if it was 0 (R23). -/
def AnsweredOnce (s t : State) : Prop :=
  ∃ w, responses t = w :: responses s ∧ t.fcode = if s.fcode = 0#4 then w.extractLsb' 16 4 else s.fcode

@[simp] theorem responseWord_status (st : Status) (d : Half) : (responseWord st d).extractLsb' 16 4 = st.code :=
  BitVec.extractLsb'_append_eq_left

theorem refuse_answered (st : Status) (s : State) : AnsweredOnce s (refuse st s) :=
  ⟨responseWord st 0#16, rfl, by rw [responseWord_status]; rfl⟩

theorem constructionFault_answered (st : Status) (s : State) : AnsweredOnce s (constructionFault st s) :=
  ⟨responseWord st 0#16, rfl, by rw [responseWord_status]; rfl⟩

theorem respond_ok_answered (d : Half) (s : State) : AnsweredOnce s (respond .ok d s) := by
  refine ⟨responseWord .ok d, rfl, ?_⟩
  rw [responseWord_status]
  split
  · next h => exact h
  · rfl

/-- The micro-steps that give the response (R96). -/
def MicroOp.answers : MicroOp → Bool
  | .reply | .replyData | .raise _ => true
  | _ => false

/-- The last micro-step, and no other, gives the response. -/
def answersLast : List MicroOp → Bool
  | [] => false
  | [op] => op.answers
  | op :: ops => !op.answers && answersLast ops

theorem MicroOp.run_answered {op : MicroOp} (h : op.answers = true) (w : Word) (s : State) :
    AnsweredOnce s (op.run w s).2 := by
  cases op with
  | reply => exact respond_ok_answered _ s
  | replyData => exact respond_ok_answered _ s
  | raise st => exact constructionFault_answered st s
  | _ => cases h

theorem MicroOp.run_unanswered {op : MicroOp} (h : op.answers = false) (w : Word) (s : State) :
    responses (op.run w s).2 = responses s ∧ (op.run w s).2.fcode = s.fcode := by
  cases op with
  | reply => cases h
  | replyData => cases h
  | raise st => cases h
  | modify r clear set => cases r <;> exact ⟨rfl, rfl⟩
  | store r v => cases r <;> exact ⟨rfl, rfl⟩
  | _ => exact ⟨rfl, rfl⟩

@[simp] theorem responses_dueTicks (s : State) : responses (dueTicks s) = responses s := by
  simp [responses]

theorem AnsweredOnce.congr_left {s s' t : State} (h : AnsweredOnce s t) (hr : responses s = responses s')
    (hf : s.fcode = s'.fcode) : AnsweredOnce s' t := by
  unfold AnsweredOnce at h ⊢; rwa [← hr, ← hf]

theorem runMicro_answered : ∀ {ops : List MicroOp}, answersLast ops = true → ∀ (w : Word) (s : State),
    AnsweredOnce s (runMicro ops w s)
  | [op], h, w, s => (MicroOp.run_answered h w (dueTicks s)).congr_left (by simp) (by simp)
  | op :: op' :: ops, h, w, s => by
    obtain ⟨hop, hops⟩ : op.answers = false ∧ answersLast (op' :: ops) = true := by simpa [answersLast] using h
    obtain ⟨hr, hf⟩ := MicroOp.run_unanswered hop w (dueTicks s)
    exact (runMicro_answered hops _ _).congr_left (by rw [hr, responses_dueTicks]) (by rw [hf, dueTicks_fcode])

theorem OkPlan.answersLast {s : State} {i : Instr} {ops : List MicroOp} (h : OkPlan s i ops) :
    answersLast ops = true := by
  cases h <;> rfl

theorem perform_answered (i : Instr) (s : State) : AnsweredOnce s (perform (planOf i s) s) := by
  cases hp : planOf i s with
  | error st => exact refuse_answered st s
  | ok ops => exact runMicro_answered (planOf_ok hp).answersLast _ s

/-- Settles O12: every plan gives its one response last, and each way to respond sets `FCODE` as R23 says. -/
theorem firstNonOkStatusStays : Obligations.FirstNonOkStatusStays := by
  intro i s t h
  obtain rfl := exec_eq_next_iff.1 h
  exact perform_answered i s

/-! ### The interrupt mask -/

/-- What a micro-step makes of `IRQMASK` and `IRQSAVE` (R69). -/
def MicroOp.maskEffect (p : Bool × Bool) : MicroOp → Bool × Bool
  | .csEnter => (true, p.1)
  | .csExit => (p.2, p.2)
  | _ => p

theorem MicroOp.run_mask (op : MicroOp) (w : Word) (s : State) :
    ((op.run w s).2.irqMask, (op.run w s).2.irqSave) = op.maskEffect (s.irqMask, s.irqSave) := by
  cases op with
  | modify r clear set => cases r <;> rfl
  | store r v => cases r <;> rfl
  | _ => rfl

theorem runMicro_mask (ops : List MicroOp) (w : Word) (s : State) :
    ((runMicro ops w s).irqMask, (runMicro ops w s).irqSave) =
      ops.foldl MicroOp.maskEffect (s.irqMask, s.irqSave) := by
  induction ops generalizing w s with
  | nil => rfl
  | cons op ops ih => rw [runMicro, ih, MicroOp.run_mask, dueTicks_irqMask, dueTicks_irqSave, List.foldl_cons]

/-- Every plan leaves the mask as it was; ENABLE and DISABLE also leave it in `IRQSAVE` (R31, R69, R163). -/
theorem OkPlan.mask {s : State} {i : Instr} {ops : List MicroOp} (h : OkPlan s i ops) (p : Bool × Bool) :
    ops.foldl MicroOp.maskEffect p = p ∨
      (∃ ch, i = .enable ch ∨ i = .disable ch) ∧ ops.foldl MicroOp.maskEffect p = (p.1, p.1) := by
  cases h with
  | @enable ch _ => exact .inr ⟨⟨ch, .inl rfl⟩, rfl⟩
  | @disable ch _ => exact .inr ⟨⟨ch, .inr rfl⟩, rfl⟩
  | _ => exact .inl rfl

/-- Settles O31: a refusal leaves both bits, and a plan's micro-steps enter the critical section and leave it again
or do neither. -/
theorem commandsRestoreTheInterruptMask : Obligations.CommandsRestoreTheInterruptMask := by
  intro i s t h
  obtain rfl := exec_eq_next_iff.1 h
  cases hp : planOf i s with
  | error st => exact ⟨rfl, .inl rfl⟩
  | ok ops =>
    have hrun := runMicro_mask ops 0#32 s
    rcases (planOf_ok hp).mask (s.irqMask, s.irqSave) with hkeep | ⟨hi, hsave⟩
    · rw [hkeep, Prod.mk.injEq] at hrun
      exact ⟨hrun.1, .inl hrun.2⟩
    · rw [hsave, Prod.mk.injEq] at hrun
      exact ⟨hrun.1, .inr ⟨hi, hrun.2⟩⟩

/-! ### The pin record -/

@[simp] theorem pinmuxGet_pinmuxSet (l : List (PinId × AfSel)) (pin q : PinId) (sel : AfSel) :
    pinmuxGet (pinmuxSet l pin sel) q = if q = pin then some sel else pinmuxGet l q := by
  induction l with
  | nil => simp only [pinmuxSet, pinmuxGet, eq_comm (a := q)]
  | cons x rest ih =>
    obtain ⟨p, a⟩ := x
    unfold pinmuxSet
    split
    · next hp => subst hp; by_cases hq : q = pin <;> simp [pinmuxGet, hq, eq_comm (b := q)]
    · next hp =>
      split
      · by_cases hq : q = pin <;> simp [pinmuxGet, hq, eq_comm (b := q)]
      · by_cases hq : p = q
        · subst hq; simp [pinmuxGet, Ne.symm hp]
        · simp [pinmuxGet, hq, ih]

/-- Settles O35: the read after the write, and the order of the list, each by induction on the list. -/
theorem pinRecordReadsAsWritten : Obligations.PinRecordReadsAsWritten :=
  fun l pin q sel => ⟨pinmuxGet_pinmuxSet l pin q sel, pinmuxSet_wf⟩

end Sys2Proof.Machine
end

section
/-! PROOFS. The invariant (R34): each update of the state that a micro-step or an input makes keeps it, and from that
every command, instant by instant, and every step. -/

namespace Sys2Proof.Machine

variable {s : State}

/-! ### Reset and TICK -/

/-- Hardware reset needs nothing of the state but a canonical pin record, which it keeps (R35, R280). -/
theorem blockInv_hardwareReset (hmux : pinmuxWf s.pinmux = true) : BlockInv (hardwareReset s) where
  enabledIsPwm1 ch hc := by simp at hc
  preloadOffFollows ch _ := rfl
  assignedBound ch p hp := by simp at hp
  pinsDistinct ch ch' p hp _ := by simp at hp
  startedIffInitialized := rfl
  initializedRuns hi := by simp at hi
  enabledAssigned ch hc := by simp at hc
  haltHasCode hh := by simp at hh
  codeProduced := Nat.zero_le 10
  counterInPeriod := by simp
  assignedRouted ch p hp := by simp at hp
  pinmuxCanonical := hmux

/-- Settles O48: the state after reset is a reset of itself, with no pin recorded. -/
theorem invHoldsAfterReset : Obligations.InvHoldsAfterReset :=
  blockInv_hardwareReset (s := State.reset) rfl

theorem half_zero_le (x : Half) : 0#16 ≤ x := Nat.zero_le x.toNat

theorem BlockInv.tick (h : BlockInv s) : BlockInv (tick s) := by
  obtain ⟨hcnt, hpsc⟩ := h.counterInPeriod
  rcases tick_cases s with ⟨-, ht⟩ | ⟨-, hlt, ht⟩ | ⟨-, -, hlt, ht⟩ | ⟨-, -, -, ht⟩ <;> rw [ht]
  · exact h
  · exact { h with counterInPeriod := ⟨hcnt, by bv_omega⟩ }
  · exact { h with counterInPeriod := ⟨by bv_omega, half_zero_le _⟩ }
  · exact { h with counterInPeriod := ⟨half_zero_le _, half_zero_le _⟩, preloadOffFollows := fun _ _ => rfl }

/-- Before INIT the counter has no step (R34 (c), R210). -/
theorem BlockInv.tick_eq_self (h : BlockInv s) (hinit : s.initialized = false) : Machine.tick s = s := by
  simp [Machine.tick, tickEnabled, h.startedIffInitialized, hinit]

/-- Before INIT no channel is assigned (R34 (e)). -/
theorem BlockInv.unassigned (h : BlockInv s) (hinit : s.initialized = false) (ch : Channel) :
    s.chstate.get ch = .unassigned := by
  cases hch : s.chstate.get ch with
  | unassigned => rfl
  | assigned p => exact absurd (h.assignedBound ch p hch).1 (by simp [hinit])

/-! ### The fault record -/

theorem Status.code_toNat_le (st : Status) : st.code.toNat ≤ 10 := by cases st <;> decide

theorem Status.code_ne_zero {st : Status} (h : st ≠ .ok) : st.code ≠ 0#4 := by
  cases st with
  | ok => exact absurd rfl h
  | _ => decide

theorem latchCode_toNat_le (st : Status) {c : StatusCode} (h : c.toNat ≤ 10) : (latchCode st c).toNat ≤ 10 := by
  unfold latchCode; split
  · exact st.code_toNat_le
  · exact h

theorem latchCode_of_ne_zero (st : Status) {c : StatusCode} (h : c ≠ 0#4) : latchCode st c = c := if_neg h

theorem latchCode_ne_zero {st : Status} (h : st ≠ .ok) (c : StatusCode) : latchCode st c ≠ 0#4 := by
  unfold latchCode; split
  · exact Status.code_ne_zero h
  · assumption

theorem BlockInv.refuse (h : BlockInv s) (st : Status) : BlockInv (refuse st s) :=
  { h with
    haltHasCode := fun hh => by
      have hcode : s.fcode ≠ 0#4 := h.haltHasCode hh
      rwa [refuse_fcode, latchCode_of_ne_zero st hcode]
    codeProduced := latchCode_toNat_le st h.codeProduced }

theorem BlockInv.illegalCommand (h : BlockInv s) : BlockInv (illegalCommand s) := by
  unfold Machine.illegalCommand; split
  · exact h.refuse .halted
  · exact h.refuse .illegalCommand

theorem BlockInv.constructionFault (h : BlockInv s) (hinit : s.initialized = false) {st : Status} (hst : st ≠ .ok) :
    BlockInv (constructionFault st s) :=
  { h with
    initializedRuns := fun hi => absurd hi (by simp [hinit])
    haltHasCode := fun _ => latchCode_ne_zero hst s.fcode
    codeProduced := latchCode_toNat_le st h.codeProduced }

/-! ### The micro-steps of the channel commands -/

/-- The micro-steps that only read, reply or move the interrupt mask. -/
def MicroOp.portsOnly : MicroOp → Bool
  | .csEnter | .csExit | .load _ | .reply | .replyData => true
  | _ => false

/-- Such a micro-step touches nothing the invariant speaks of. -/
theorem BlockInv.run_portsOnly (h : BlockInv s) {op : MicroOp} (hop : op.portsOnly = true) (w : Word) :
    BlockInv (op.run w s).2 := by
  cases op with
  | csEnter => exact { h with }
  | csExit => exact { h with }
  | load r => exact h
  | reply => exact { h with }
  | replyData => exact { h with }
  | _ => cases hop

/-- ENABLE's first write: preload and mode together, so (a) and (b) both stay (R152). -/
theorem BlockInv.setMode (h : BlockInv s) (ch : Channel) :
    BlockInv { s with ocpe := s.ocpe.set ch true, ocm := s.ocm.set ch pwmMode1 } :=
  { h with
    enabledIsPwm1 := fun c hc => by
      simp only [ByChannel.get_set]
      split
      · exact ⟨rfl, rfl⟩
      · exact h.enabledIsPwm1 c hc
    preloadOffFollows := fun c hc => by
      simp only [ByChannel.get_set] at hc
      split at hc
      · cases hc
      · exact h.preloadOffFollows c hc }

/-- ENABLE's second write: the channel is assigned, and its mode and preload are set already (R152). -/
theorem BlockInv.setEnable (h : BlockInv s) {ch : Channel} (hassigned : ∃ p, s.chstate.get ch = .assigned p)
    (hmode : s.ocm.get ch = pwmMode1 ∧ s.ocpe.get ch = true) : BlockInv { s with cce := s.cce.set ch true } :=
  { h with
    enabledIsPwm1 := fun c hc => by
      by_cases hch : c = ch
      · exact hch ▸ hmode
      · exact h.enabledIsPwm1 c (by simpa [ByChannel.get_set, hch] using hc)
    enabledAssigned := fun c hc => by
      by_cases hch : c = ch
      · exact hch ▸ hassigned
      · exact h.enabledAssigned c (by simpa [ByChannel.get_set, hch] using hc) }

/-- DISABLE's write: one enabled channel less (R154). -/
theorem BlockInv.clearEnable (h : BlockInv s) (ch : Channel) : BlockInv { s with cce := s.cce.set ch false } := by
  have still : ∀ {c}, (s.cce.set ch false).get c = true → s.cce.get c = true := fun {c} hc => by
    rw [ByChannel.get_set] at hc
    split at hc
    · cases hc
    · exact hc
  exact { h with
    enabledIsPwm1 := fun c hc => h.enabledIsPwm1 c (still hc)
    enabledAssigned := fun c hc => h.enabledAssigned c (still hc) }

/-- SET_DUTY's write: with preload off the active value follows at once (R28, R156). -/
theorem BlockInv.writeDuty (h : BlockInv s) (ch : Channel) (d : Half) : BlockInv (writeDuty ch d s) :=
  { h with
    preloadOffFollows := fun c (hc : s.ocpe.get c = false) => by
      have hold := h.preloadOffFollows c hc
      by_cases hch : c = ch
      · subst hch; simp [Machine.writeDuty, hc]
      · cases hp : s.ocpe.get ch <;> simp [Machine.writeDuty, hp, ByChannel.get_set_other _ _ hch, hold] }

/-! ### The micro-steps of ASSIGN -/

theorem owned_eq_false_iff {pin : PinId} : owned s pin = false ↔ ∀ ch, s.chstate.get ch ≠ .assigned pin := by
  constructor
  · intro h ch
    simp only [owned, owns, Bool.or_eq_false_iff, beq_eq_false_iff_ne] at h
    obtain ⟨⟨⟨h1, h2⟩, h3⟩, h4⟩ := h
    cases ch <;> assumption
  · intro h
    simp [owned, owns, h]

/-- The route of a pin no channel owns may change (R194). -/
theorem BlockInv.afSelect (h : BlockInv s) {pin : PinId} (hpin : owned s pin = false) (sel : AfSel) :
    BlockInv (emit (.afSelect pin sel) { s with pinmux := pinmuxSet s.pinmux pin sel }) :=
  { h with
    assignedRouted := fun ch p hp => by
      have hne : p ≠ pin := fun e => owned_eq_false_iff.1 hpin ch (e ▸ hp)
      simpa [hne] using h.assignedRouted ch p hp
    pinmuxCanonical := pinmuxSet_wf h.pinmuxCanonical }

/-- A bound and routed pin that no channel owns may be assigned (R190, R194). -/
theorem BlockInv.setAssigned (h : BlockInv s) {ch : Channel} {pin : PinId} {sel : AfSel}
    (hinit : s.initialized = true) (hbind : bindLookup s.cfg pin ch = some sel) (hpin : owned s pin = false)
    (hroute : pinmuxGet s.pinmux pin = some sel) :
    BlockInv { s with chstate := s.chstate.set ch (.assigned pin) } := by
  have cases_of : ∀ {c p}, (s.chstate.set ch (.assigned pin)).get c = .assigned p →
      (c = ch ∧ p = pin) ∨ (p ≠ pin ∧ s.chstate.get c = .assigned p) := fun {c p} hp => by
    rw [ByChannel.get_set] at hp
    split at hp
    · next hc => exact .inl ⟨hc, (ChState.assigned.inj hp).symm⟩
    · exact .inr ⟨fun e => owned_eq_false_iff.1 hpin c (e ▸ hp), hp⟩
  exact { h with
    assignedBound := fun c p hp => by
      rcases cases_of hp with ⟨rfl, rfl⟩ | ⟨-, hp⟩
      · exact ⟨hinit, by simp [hbind]⟩
      · exact h.assignedBound c p hp
    pinsDistinct := fun c c' p hp hp' => by
      rcases cases_of hp with ⟨hc, hpp⟩ | ⟨hne, hp⟩ <;> rcases cases_of hp' with ⟨hc', hpp'⟩ | ⟨hne', hp'⟩
      · exact hc.trans hc'.symm
      · exact absurd hpp hne'
      · exact absurd hpp' hne
      · exact h.pinsDistinct c c' p hp hp'
    enabledAssigned := fun c hc => by
      by_cases hch : c = ch
      · exact ⟨pin, hch ▸ ByChannel.get_set_same ..⟩
      · exact ByChannel.get_set_other s.chstate (.assigned pin) hch ▸ h.enabledAssigned c hc
    assignedRouted := fun c p hp => by
      rcases cases_of hp with ⟨rfl, rfl⟩ | ⟨-, hp⟩
      · exact hroute.trans hbind.symm
      · exact h.assignedRouted c p hp }

/-! ### The micro-steps of INIT -/

theorem BlockInv.clkEnable (h : BlockInv s) (hinit : s.initialized = false) :
    BlockInv (emit .clkEnable { s with clken := true }) :=
  { h with initializedRuns := fun hi => absurd hi (by simp [hinit]) }

theorem BlockInv.peripheralReset (h : BlockInv s) (hinit : s.initialized = false) :
    BlockInv (emit .periphResetPulse (peripheralReset s)) :=
  { h with
    enabledIsPwm1 := fun ch hc => by simp at hc
    preloadOffFollows := fun _ _ => rfl
    startedIffInitialized := hinit.symm
    initializedRuns := fun hi => absurd hi (by simp [hinit])
    enabledAssigned := fun ch hc => by simp at hc
    counterInPeriod := by simp }

/-- With `PSCCNT = 0` any prescaler will do (R127). -/
theorem BlockInv.storePsc (h : BlockInv s) (hpsccnt : s.psccnt = 0#16) (v : Word) : BlockInv (writeReg .psc v s) :=
  { h with counterInPeriod := ⟨h.counterInPeriod.1, hpsccnt ▸ half_zero_le _⟩ }

/-- With `CNT = 0` and before the end of INIT any reload will do (R127). -/
theorem BlockInv.storeArr (h : BlockInv s) (hinit : s.initialized = false) (hcnt : s.cnt = 0#16) (v : Word) :
    BlockInv (writeReg .arr v s) :=
  { h with
    initializedRuns := fun hi => absurd hi (by simp [writeReg, hinit])
    counterInPeriod := ⟨hcnt ▸ half_zero_le _, h.counterInPeriod.2⟩ }

/-- The counter started and INIT recorded, both at once (R127, R128). -/
theorem BlockInv.start (h : BlockInv s) (hhalt : s.halt = false) (hclk : s.clken = true) (harr : 1 ≤ s.arr.toNat) :
    BlockInv { s with cen := true, initialized := true } :=
  { h with
    assignedBound := fun ch p hp => ⟨rfl, (h.assignedBound ch p hp).2⟩
    startedIffInitialized := rfl
    initializedRuns := fun _ => ⟨hclk, harr, hhalt⟩ }

/-! ### The synthesis -/

theorem toU16_toNat {n : Int} {v : Half} (h : toU16 n = some v) : (v.toNat : Int) = n := by
  unfold toU16 at h
  split at h
  · cases h; rw [BitVec.toNat_ofNat]; omega
  · cases h

theorem synthesise_error_ne_ok {clk freq : Hz} {st : Status} (h : synthesise clk freq = .error st) : st ≠ .ok := by
  unfold synthesise at h
  split at h
  · cases h; decide
  · split at h
    · cases h; decide
    · split at h
      · cases h; decide
      · cases h

/-- `ceil_div` by a positive number neither vanishes on nor exceeds a positive number (R9). -/
theorem ceilDiv_pos_le {a : Nat} (b : Nat) (ha : 0 < a) : 0 < ceilDiv a b ∧ ceilDiv a b ≤ a := by
  have hdiv : (a - 1) / b ≤ a - 1 := Nat.div_le_self (a - 1) b
  rw [ceilDiv, if_neg ha.ne']
  exact ⟨Nat.succ_pos _, by omega⟩

/-- A reload that was computed is at least 1 (R126, R131). -/
theorem synthesise_ok_arr {clk freq : Hz} {psc arr : Half} (h : synthesise clk freq = .ok (psc, arr)) :
    1 ≤ arr.toNat := by
  unfold synthesise at h
  split at h
  · cases h
  · split at h
    · cases h
    · next psc' hpsc =>
      split at h
      · cases h
      · next arr' harr =>
        cases h
        have hp := toU16_toNat hpsc
        have ha := toU16_toNat harr
        have hpos : 0 < initTicks clk freq := by
          by_contra h0
          simp only [ceilDiv, Nat.eq_zero_of_not_pos h0, if_true] at hp
          omega
        obtain ⟨hc, hle⟩ := ceilDiv_pos_le 65536 hpos
        have hdiv : 0 < initTicks clk freq / (psc.toNat + 1) := Nat.div_pos (by omega) (by omega)
        omega

/-! ### Proof outlines: assertions between the micro-steps -/

/-- An assertion on the word last read and the state that may stand between two micro-steps: TICKs keep it, and R34 (a),
(b), (e) hold wherever it does. -/
structure CutPoint (Q : Word → State → Prop) : Prop where
  instant : ∀ {w s}, Q w s → InstantInv s
  tick : ∀ {w s}, Q w s → Q w (Machine.tick s)
  schedule : ∀ {w s} (sch : List Nat), Q w s → Q w { s with schedule := sch }

/-- From the assertion `Q` the micro-steps pass only through instants of R34 (a), (b), (e), and end in the invariant. -/
def KeepsInv (Q : Word → State → Prop) (ops : List MicroOp) : Prop :=
  ∀ w s, Q w s → (∀ u ∈ microInstants ops w s, InstantInv u) ∧ BlockInv (runMicro ops w s)

section
variable {Q Q' E : Word → State → Prop} {op : MicroOp} {ops : List MicroOp}

theorem CutPoint.tickN (hQ : CutPoint Q) {w : Word} (n : Nat) {s : State} (h : Q w s) : Q w (tickN n s) := by
  induction n generalizing s with
  | zero => exact h
  | succ n ih => exact ih (hQ.tick h)

/-- One micro-step of an outline: from one assertion to the next, with the TICKs before it (R71). -/
theorem KeepsInv.cons (hQ : CutPoint Q) (hop : ∀ w s, Q w s → Q' (op.run w s).1 (op.run w s).2)
    (hops : KeepsInv Q' ops) : KeepsInv Q (op :: ops) := by
  intro w s h
  have ticked : ∀ n, Q w (Machine.tickN n { s with schedule := s.schedule.tail }) := fun n =>
    hQ.tickN n (hQ.schedule _ h)
  obtain ⟨hrest, hend⟩ := hops _ _ (hop w (dueTicks s) (dueTicks_eq s ▸ ticked _))
  refine ⟨fun u hu => ?_, hend⟩
  rcases List.mem_cons.1 hu with rfl | hu
  · exact hQ.instant h
  · rcases List.mem_append.1 hu with hu | hu
    · obtain ⟨n, -, rfl⟩ := mem_dueTrail hu
      exact hQ.instant (ticked n)
    · exact hrest u hu

/-- Reads, replies and the interrupt mask need no assertion but the invariant. -/
theorem keepsInv_portsOnly (hops : ∀ op ∈ ops, op.portsOnly = true) : KeepsInv (fun _ s => BlockInv s) ops := by
  intro w s h
  have hall := microInstants_all (P := BlockInv) (fun _ => BlockInv.tick) (fun _ _ h => { h with }) ops
    (fun op hop w _ h => h.run_portsOnly (hops op hop) w) w s h
  exact ⟨fun u hu => (hall u hu).toInstantInv, hall _ (List.mem_of_getLast? (microInstants_last ops w s))⟩

theorem cutPoint_blockInv : CutPoint fun _ s => BlockInv s where
  instant h := h.toInstantInv
  tick h := h.tick
  schedule _ h := { h with }

/-- The invariant and a fact about what TICKs leave alone. -/
theorem CutPoint.and (hQ : CutPoint Q) (htick : ∀ w s, E w (Machine.tick s) ↔ E w s)
    (hsch : ∀ w s sch, E w { s with schedule := sch } ↔ E w s) : CutPoint fun w s => Q w s ∧ E w s where
  instant h := hQ.instant h.1
  tick h := ⟨hQ.tick h.1, (htick _ _).2 h.2⟩
  schedule sch h := ⟨hQ.schedule sch h.1, (hsch _ _ sch).2 h.2⟩

/-- Before INIT there are no TICKs, so any other fact stays (R34 (c), R210). -/
theorem cutPoint_uninitialized {F : State → Prop} (hsch : ∀ s sch, F s → F { s with schedule := sch }) :
    CutPoint fun _ s => (BlockInv s ∧ s.initialized = false) ∧ F s where
  instant h := h.1.1.toInstantInv
  tick {_ s} h := by rwa [h.1.1.tick_eq_self h.1.2]
  schedule sch h := ⟨⟨{ h.1.1 with }, h.1.2⟩, hsch _ sch h.2⟩

end

/-! ### The outlines of the commands -/

/-- The channel owns some pin (R30). -/
def IsAssigned (ch : Channel) (s : State) : Prop := ∃ p, s.chstate.get ch = .assigned p

/-- Mode and preload of a channel are what an enabled output needs (R34 (a)). -/
def ModeIsSet (ch : Channel) (s : State) : Prop := s.ocm.get ch = pwmMode1 ∧ s.ocpe.get ch = true

/-- The word last read is still what the register holds. -/
def LastRead (r : Reg) (w : Word) (s : State) : Prop := w = readReg r s

theorem CutPoint.lastRead {Q : Word → State → Prop} (hQ : CutPoint Q) {r : Reg} (hr : (r != .cnt) = true) :
    CutPoint fun w s => Q w s ∧ LastRead r w s :=
  hQ.and (fun w s => by rw [LastRead, readReg_tick hr, LastRead]) fun _ _ _ => Iff.rfl

theorem cutPoint_assigned (ch : Channel) : CutPoint fun _ s => BlockInv s ∧ IsAssigned ch s :=
  cutPoint_blockInv.and (fun _ s => by simp [IsAssigned]) fun _ _ _ => Iff.rfl

theorem cutPoint_modeIsSet (ch : Channel) : CutPoint fun _ s => (BlockInv s ∧ IsAssigned ch s) ∧ ModeIsSet ch s :=
  (cutPoint_assigned ch).and (fun _ s => by simp [ModeIsSet]) fun _ _ _ => Iff.rfl

/-! The writes of R152, R154 and R156 as micro-steps; the read-modify-writes on the word just read. -/

theorem run_store_duty (ch : Channel) (d : Half) (w : Word) (s : State) :
    (MicroOp.run w s (.store (dutyReg ch) (d.setWidth 32))).2 = writeDuty ch d s :=
  writeReg_duty ch d s

theorem run_modify_mode (ch : Channel) (s : State) :
    (MicroOp.run (readReg (modeReg ch) s) s (.modify (modeReg ch) (modeClear ch) (modeSet ch))).2 =
      { s with ocpe := s.ocpe.set ch true, ocm := s.ocm.set ch pwmMode1 } :=
  writeReg_mode ch s

theorem run_modify_enable (ch : Channel) (s : State) :
    (MicroOp.run (readReg .ccer s) s (.modify .ccer 0#32 (enableBit ch))).2 = { s with cce := s.cce.set ch true } :=
  writeReg_enable ch s

theorem run_modify_disable (ch : Channel) (s : State) :
    (MicroOp.run (readReg .ccer s) s (.modify .ccer (enableBit ch) 0#32)).2 = { s with cce := s.cce.set ch false } :=
  writeReg_disable ch s

/-- GET_DUTY and GET_MAX_DUTY: a read and its reply (R155, R158). -/
theorem keepsInv_get (r : Reg) : KeepsInv (fun _ s => BlockInv s) [.load r, .replyData] :=
  keepsInv_portsOnly (by simp [MicroOp.portsOnly])

/-- The end of a critical section, and the reply (R69, R96). -/
theorem keepsInv_exit : KeepsInv (fun _ s => BlockInv s) [.csExit, .reply] :=
  keepsInv_portsOnly (by simp [MicroOp.portsOnly])

theorem keepsInv_reply : KeepsInv (fun _ s => BlockInv s) [.reply] :=
  keepsInv_portsOnly (by simp [MicroOp.portsOnly])

theorem keepsInv_nil : KeepsInv (fun _ s => BlockInv s) [] :=
  keepsInv_portsOnly (by simp)

/-- SET_DUTY: one write (R156). -/
theorem keepsInv_setDuty (ch : Channel) (d : Half) : KeepsInv (fun _ s => BlockInv s) (setDutyOps ch d) :=
  .cons cutPoint_blockInv (fun w s h => by
    rw [run_store_duty]
    exact h.writeDuty ch d) keepsInv_reply

/-- DISABLE: the read-modify-write of `CCER` inside the critical section (R154). -/
theorem keepsInv_disable (ch : Channel) : KeepsInv (fun _ s => BlockInv s) (disableOps ch) :=
  .cons cutPoint_blockInv (fun w _ h => h.run_portsOnly rfl w) <|
  .cons (Q' := fun w s => BlockInv s ∧ LastRead .ccer w s) cutPoint_blockInv (fun _ _ h => ⟨h, rfl⟩) <|
  .cons (cutPoint_blockInv.lastRead rfl) (fun _ s ⟨h, hw⟩ => by
    rw [hw, run_modify_disable]
    exact h.clearEnable ch) keepsInv_exit

/-- ENABLE: mode and preload are set before the enable bit, so (a) holds between them too (R152, R153). -/
theorem keepsInv_enable (ch : Channel) : KeepsInv (fun _ s => BlockInv s ∧ IsAssigned ch s) (enableOps ch) :=
  have hmodeReg : (modeReg ch != .cnt) = true := by cases ch <;> rfl
  .cons (cutPoint_assigned ch) (fun w _ ⟨h, ha⟩ => ⟨h.run_portsOnly rfl w, ha⟩) <|
  .cons (Q' := fun w s => (BlockInv s ∧ IsAssigned ch s) ∧ LastRead (modeReg ch) w s) (cutPoint_assigned ch)
    (fun _ _ h => ⟨h, rfl⟩) <|
  .cons ((cutPoint_assigned ch).lastRead hmodeReg) (fun _ s ⟨⟨h, ha⟩, hw⟩ => by
    rw [hw, run_modify_mode]
    exact ⟨⟨h.setMode ch, ha⟩, by simp [ModeIsSet]⟩) <|
  .cons (Q' := fun w s => ((BlockInv s ∧ IsAssigned ch s) ∧ ModeIsSet ch s) ∧ LastRead .ccer w s)
    (cutPoint_modeIsSet ch) (fun _ _ h => ⟨h, rfl⟩) <|
  .cons ((cutPoint_modeIsSet ch).lastRead rfl) (fun _ s ⟨⟨⟨h, ha⟩, hm⟩, hw⟩ => by
    rw [hw, run_modify_enable]
    exact h.setEnable ha hm) keepsInv_exit

/-- What ASSIGN's tests have established (R190). -/
def MayAssign (ch : Channel) (pin : PinId) (sel : AfSel) (s : State) : Prop :=
  s.initialized = true ∧ bindLookup s.cfg pin ch = some sel ∧ owned s pin = false

/-- ASSIGN: the pin is routed while no channel owns it, then assigned (R190, R194). -/
theorem keepsInv_assign (ch : Channel) (pin : PinId) (sel : AfSel) :
    KeepsInv (fun _ s => BlockInv s ∧ MayAssign ch pin sel s) [.afSelect pin sel, .setAssigned ch pin, .reply] :=
  have hmay : CutPoint fun _ s => BlockInv s ∧ MayAssign ch pin sel s :=
    cutPoint_blockInv.and (fun _ s => by simp [MayAssign, owned, owns]) fun _ _ _ => Iff.rfl
  .cons (Q' := fun _ s => (BlockInv s ∧ MayAssign ch pin sel s) ∧ pinmuxGet s.pinmux pin = some sel) hmay
    (fun _ s ⟨h, hi, hbind, hpin⟩ => ⟨⟨h.afSelect hpin sel, hi, hbind, hpin⟩, by simp [MicroOp.run]⟩) <|
  .cons (hmay.and (fun _ s => by simp) fun _ _ _ => Iff.rfl)
    (fun _ _ ⟨⟨h, hi, hbind, hpin⟩, hroute⟩ => h.setAssigned hi hbind hpin hroute) keepsInv_reply

/-- INIT that fails: the fault is recorded in a block that is not initialised (R242). -/
theorem keepsInv_initFault {st : Status} (hst : st ≠ .ok) :
    KeepsInv (fun _ s => BlockInv s ∧ s.initialized = false) [.clkEnable, .peripheralReset, .raise st] :=
  have huninit : CutPoint fun _ s => BlockInv s ∧ s.initialized = false :=
    cutPoint_blockInv.and (fun _ s => by simp) fun _ _ _ => Iff.rfl
  .cons huninit (fun _ _ ⟨h, hi⟩ => ⟨h.clkEnable hi, hi⟩) <|
  .cons huninit (fun _ _ ⟨h, hi⟩ => ⟨h.peripheralReset hi, hi⟩) <|
  .cons huninit (fun _ _ ⟨h, hi⟩ => h.constructionFault hi hst) keepsInv_nil

/-- The block is not halted and INIT has switched the clock on (R121). -/
def Clocked (s : State) : Prop := s.halt = false ∧ s.clken = true

/-- INIT's reset pulse has cleared the counter (R121). -/
def Cleared (s : State) : Prop := Clocked s ∧ s.cnt = 0#16 ∧ s.psccnt = 0#16

/-- The counter runs and only INIT's record is missing: no channel is assigned yet (R128). -/
def Started (s : State) : Prop := BlockInv { s with initialized := true } ∧ ∀ ch, s.chstate.get ch = .unassigned

theorem cutPoint_started : CutPoint fun _ s => Started s where
  instant {_ s} := fun ⟨h, hfree⟩ =>
    { h with assignedBound := fun ch p hp => by rw [hfree ch] at hp; cases hp }
  tick {_ s} := fun ⟨h, hfree⟩ => by
    refine ⟨?_, by simpa using hfree⟩
    rw [tick_comm (fun s => { s with initialized := true }) (fun _ _ _ _ => rfl) (fun _ => by simp)]
    exact h.tick
  schedule _ := fun ⟨h, hfree⟩ => ⟨{ h with }, hfree⟩

/-- INIT that completes: only between the counter's start and the record of it is (c) broken, which no instant of R34
(a), (b), (e) sees (R127, R128). -/
theorem keepsInv_initDone (psc : Half) {arr : Half} (harr : 1 ≤ arr.toNat) :
    KeepsInv (fun _ s => (BlockInv s ∧ s.initialized = false) ∧ s.halt = false)
      [.clkEnable, .peripheralReset, .store .psc (psc.setWidth 32), .store .arr (arr.setWidth 32),
        .store .cr1 0x00000001#32, .setInitialized, .reply] :=
  .cons (Q' := fun _ s => (BlockInv s ∧ s.initialized = false) ∧ Clocked s)
    (cutPoint_uninitialized fun _ _ h => h)
    (fun _ _ ⟨⟨h, hi⟩, hhalt⟩ => ⟨⟨h.clkEnable hi, hi⟩, hhalt, rfl⟩) <|
  .cons (Q' := fun _ s => (BlockInv s ∧ s.initialized = false) ∧ Cleared s) (cutPoint_uninitialized fun _ _ h => h)
    (fun _ _ ⟨⟨h, hi⟩, hclk⟩ => ⟨⟨h.peripheralReset hi, hi⟩, hclk, rfl, rfl⟩) <|
  .cons (Q' := fun _ s => (BlockInv s ∧ s.initialized = false) ∧ Cleared s) (cutPoint_uninitialized fun _ _ h => h)
    (fun _ _ ⟨⟨h, hi⟩, hclk, hcnt, hpsccnt⟩ => ⟨⟨h.storePsc hpsccnt _, hi⟩, hclk, hcnt, hpsccnt⟩) <|
  .cons (Q' := fun _ s => (BlockInv s ∧ s.initialized = false) ∧ Cleared s ∧ 1 ≤ s.arr.toNat)
    (cutPoint_uninitialized fun _ _ h => h)
    (fun _ _ ⟨⟨h, hi⟩, hclk, hcnt, hpsccnt⟩ => ⟨⟨h.storeArr hi hcnt _, hi⟩, ⟨hclk, hcnt, hpsccnt⟩, by
      simpa [MicroOp.run, writeReg] using harr⟩) <|
  .cons (Q' := fun _ s => Started s) (cutPoint_uninitialized fun _ _ h => h)
    (fun _ _ ⟨⟨h, hi⟩, ⟨⟨hhalt, hclk⟩, _⟩, ha⟩ => ⟨h.start hhalt hclk ha, h.unassigned hi⟩) <|
  .cons cutPoint_started (fun _ _ ⟨h, _⟩ => h) keepsInv_reply

/-! ### Commands and steps -/

theorem OkPlan.keepsInv {i : Instr} {ops : List MicroOp} (hplan : OkPlan s i ops) (h : BlockInv s) :
    (∀ u ∈ microInstants ops 0#32 s, InstantInv u) ∧ BlockInv (runMicro ops 0#32 s) := by
  cases hplan with
  | initFault _ hinit hsyn => exact keepsInv_initFault (synthesise_error_ne_ok hsyn) _ _ ⟨h, hinit⟩
  | initDone hhalt hinit hsyn => exact keepsInv_initDone _ (synthesise_ok_arr hsyn) _ _ ⟨⟨h, hinit⟩, hhalt⟩
  | assign _ hinit _ hbind hpin => exact keepsInv_assign _ _ _ _ _ ⟨h, hinit, hbind, hpin⟩
  | enable hadm =>
    obtain ⟨-, -, hassigned⟩ := hadm
    exact keepsInv_enable _ _ _ ⟨h, hassigned⟩
  | disable _ => exact keepsInv_disable _ _ _ h
  | getDuty _ => exact keepsInv_get _ _ _ h
  | setDuty _ => exact keepsInv_setDuty _ _ _ _ h
  | getMaxDuty _ => exact keepsInv_get _ _ _ h

/-- A command passes only through instants of R34 (a), (b), (e) and ends in the invariant, refused or not. -/
theorem command_keepsInv (i : Instr) (h : BlockInv s) :
    (∀ u ∈ instants i s, InstantInv u) ∧ BlockInv (perform (planOf i s) s) := by
  unfold instants
  cases hp : planOf i s with
  | ok ops => exact (planOf_ok hp).keepsInv h
  | error st =>
    refine ⟨fun u hu => ?_, h.refuse st⟩
    simp only [planInstants, List.mem_cons, List.not_mem_nil, or_false] at hu
    rcases hu with rfl | rfl
    · exact h.toInstantInv
    · exact (h.refuse st).toInstantInv

theorem instants_getLast? (i : Instr) (s : State) : (instants i s).getLast? = some (perform (planOf i s) s) := by
  unfold instants
  cases planOf i s with
  | error st => rfl
  | ok ops => exact microInstants_last ops 0#32 s

/-- Settles O50: a proof outline per command, with R34 (a), (b), (e) at every cut point. -/
theorem instantsKeepTheInvariant : Obligations.InstantsKeepTheInvariant := by
  intro i s t h hexec
  obtain rfl := exec_eq_next_iff.1 hexec
  exact ⟨(command_keepsInv i h).1, instants_getLast? i s⟩

/-- Settles O49: the case of every input, a command by its outline. -/
theorem everyStepKeepsTheInvariant : Obligations.EveryStepKeepsTheInvariant := by
  intro s t h hstep
  have taken : ∀ rest, BlockInv { s with inputs := rest } := fun _ => { h with }
  rcases step_cases hstep with ⟨-, rfl⟩ | ⟨rest, ⟨-, rfl⟩ | ⟨-, rfl⟩ | ⟨b, -, rfl⟩ | ⟨cw, i, -, -, rfl⟩ |
    ⟨cw, why, -, -, rfl⟩⟩
  · exact h.tick
  · exact (taken rest).tick
  · exact blockInv_hardwareReset h.pinmuxCanonical
  · exact { h with }
  · exact (command_keepsInv i (taken rest)).2
  · exact (taken rest).illegalCommand

end Sys2Proof.Machine
end

section
/-! PROOFS. What TICKs cannot show to a requester (R71): commands and steps read nothing the counter writes, so their
effects outside the counter are functions of the state with the counter blotted out, and commands for different channels
commute there (R73). -/

namespace Sys2Proof.Machine

/-! ### What reads nothing of the counter -/

/-- The value of `f` does not depend on `CNT`, `PSCCNT`, `CCRA` and the schedule. -/
def IgnoresCounter {α : Type} (f : State → α) : Prop := ∀ s, f (withoutCounter s) = f s

theorem IgnoresCounter.congr {α : Type} {f : State → α} (hf : IgnoresCounter f) {s u : State}
    (h : withoutCounter s = withoutCounter u) : f s = f u := by
  rw [← hf s, h, hf u]

@[simp] theorem withoutCounter_tick (s : State) : withoutCounter (tick s) = withoutCounter s := by
  rcases tick_cases s with ⟨-, ht⟩ | ⟨-, -, ht⟩ | ⟨-, -, -, ht⟩ | ⟨-, -, -, ht⟩ <;> rw [ht] <;> rfl

@[simp] theorem withoutCounter_tickN (n : Nat) (s : State) : withoutCounter (tickN n s) = withoutCounter s := by
  induction n generalizing s with
  | zero => rfl
  | succ n ih => rw [tickN_succ, ih, withoutCounter_tick]

@[simp] theorem withoutCounter_dueTicks (s : State) : withoutCounter (dueTicks s) = withoutCounter s := by
  rw [dueTicks_eq, withoutCounter_tickN]; rfl

theorem readReg_withoutCounter {r : Reg} (hr : r ≠ .cnt) (s : State) : readReg r (withoutCounter s) = readReg r s := by
  cases r with
  | cnt => exact absurd rfl hr
  | _ => rfl

theorem ignoresCounter_writeReg (r : Reg) (v : Word) : IgnoresCounter fun s => withoutCounter (writeReg r v s) := by
  intro s
  cases r <;> rfl

/-- A micro-step that does not load `CNT` reads nothing of the counter; that it may write some is blotted out. -/
theorem MicroOp.run_ignoresCounter {op : MicroOp} (hop : op ≠ .load .cnt) (w : Word) :
    IgnoresCounter fun s => ((op.run w s).1, withoutCounter (op.run w s).2) := by
  intro s
  cases op with
  | load r => exact Prod.ext (readReg_withoutCounter (fun hr => hop (hr ▸ rfl)) s) rfl
  | modify r clear set => exact Prod.ext rfl (ignoresCounter_writeReg r _ s)
  | store r v => exact Prod.ext rfl (ignoresCounter_writeReg r v s)
  | _ => rfl

/-- Two states that agree outside the counter agree there after a micro-step, and give it the same word. -/
theorem MicroOp.run_congr {op : MicroOp} (hop : op ≠ .load .cnt) (w : Word) {s u : State}
    (h : withoutCounter s = withoutCounter u) :
    (op.run w s).1 = (op.run w u).1 ∧ withoutCounter (op.run w s).2 = withoutCounter (op.run w u).2 :=
  Prod.mk.inj ((MicroOp.run_ignoresCounter hop w).congr h)

/-- Outside the counter, micro-steps run with TICKs between them do what they do without any (R71). -/
theorem runMicro_agrees_runUntimed {ops : List MicroOp} (hops : ∀ op ∈ ops, op ≠ .load .cnt) (w : Word) {s u : State}
    (h : withoutCounter s = withoutCounter u) :
    withoutCounter (runMicro ops w s) = withoutCounter (runUntimed ops w u) := by
  induction ops generalizing w s u with
  | nil => exact h
  | cons op ops ih =>
    obtain ⟨hop, hops⟩ := List.forall_mem_cons.1 hops
    obtain ⟨hw, hs⟩ := MicroOp.run_congr hop w ((withoutCounter_dueTicks s).trans h)
    rw [runMicro, runUntimed, hw]
    exact ih hops _ hs

/-- No command loads `CNT` (R71). -/
theorem OkPlan.loads_no_cnt {s : State} {i : Instr} {ops : List MicroOp} (h : OkPlan s i ops) :
    ∀ op ∈ ops, op ≠ .load .cnt := by
  have hmode : ∀ ch, modeReg ch ≠ .cnt := fun ch => by cases ch <;> decide
  cases h with
  | enable _ => simp [enableOps, hmode]
  | _ => simp [disableOps, getDutyOps, dutyReg, setDutyOps, getMaxDutyOps]

/-- The tests of a command read nothing of the counter. -/
theorem ignoresCounter_planOf (i : Instr) : IgnoresCounter (planOf i) := by
  intro s
  cases i <;> rfl

theorem ignoresCounter_command (i : Instr) : IgnoresCounter fun s => withoutCounter (perform (planOf i s) s) := by
  intro s
  simp only [ignoresCounter_planOf i s]
  cases hp : planOf i s with
  | error st => rfl
  | ok ops =>
    have hops := (planOf_ok hp).loads_no_cnt
    have hblot : withoutCounter (withoutCounter s) = withoutCounter s := rfl
    exact (runMicro_agrees_runUntimed hops 0#32 hblot).trans (runMicro_agrees_runUntimed hops 0#32 rfl).symm

theorem illegalCommand_eq_refuse (s : State) :
    illegalCommand s = refuse (if s.halt = true then .halted else .illegalCommand) s := by
  unfold illegalCommand; split <;> rfl

theorem ignoresCounter_illegalCommand : IgnoresCounter fun s => withoutCounter (illegalCommand s) := by
  intro s
  simp only [illegalCommand_eq_refuse]; rfl

/-- Every input is accepted, and its effect outside the counter reads nothing of the counter. -/
theorem accept_agrees (inp : Input) {s u : State} (h : withoutCounter s = withoutCounter u) :
    ∃ s' u', accept inp s = .next s' ∧ accept inp u = .next u' ∧ withoutCounter s' = withoutCounter u' := by
  cases inp with
  | tick => exact ⟨_, _, rfl, rfl, by rw [withoutCounter_tick, withoutCounter_tick, h]⟩
  | hardwareReset =>
    exact ⟨_, _, rfl, rfl, IgnoresCounter.congr (f := fun s => withoutCounter (hardwareReset s)) (fun _ => rfl) h⟩
  | setIrqMask b =>
    exact ⟨_, _, rfl, rfl, IgnoresCounter.congr (f := fun s => withoutCounter { s with irqMask := b }) (fun _ => rfl) h⟩
  | command cw =>
    simp only [accept, issue]
    cases decode cw with
    | ok i => exact ⟨_, _, exec_eq_perform i s, exec_eq_perform i u, (ignoresCounter_command i).congr h⟩
    | error why => exact ⟨_, _, rfl, rfl, ignoresCounter_illegalCommand.congr h⟩

/-- Settles O44: the inputs are equal, and whichever is taken is accepted alike. -/
theorem ticksAreInvisibleToRequesters : Obligations.TicksAreInvisibleToRequesters := by
  refine ⟨withoutCounter_tickN, fun s u h => ?_⟩
  have hin : s.inputs = u.inputs := IgnoresCounter.congr (f := State.inputs) (fun _ => rfl) h
  unfold step stepOnce
  rw [hin]
  cases u.inputs with
  | nil => exact ⟨_, _, rfl, rfl, by rw [withoutCounter_tick, withoutCounter_tick, h]⟩
  | cons inp rest =>
    exact accept_agrees inp
      (IgnoresCounter.congr (f := fun s => withoutCounter { s with inputs := rest }) (fun _ => rfl) h)

/-! ### Channel commands as field writes -/

/-- `X[ch] <- a`, if there is a value to write. -/
def ByChannel.put {α : Type} (v : ByChannel α) (ch : Channel) : Option α → ByChannel α
  | none => v
  | some a => v.set ch a

theorem ByChannel.put_comm {α : Type} (v : ByChannel α) {c d : Channel} (h : c ≠ d) (x y : Option α) :
    (v.put c x).put d y = (v.put d y).put c x := by
  cases x with
  | none => rfl
  | some a =>
    cases y with
    | none => rfl
    | some b => exact ByChannel.set_comm v a b h.symm

theorem ByChannel.get_put_other {α : Type} (v : ByChannel α) {c d : Channel} (h : d ≠ c) (x : Option α) :
    (v.put c x).get d = v.get d := by
  cases x with
  | none => rfl
  | some a => exact ByChannel.get_set_other v a h

/-- The values a channel command writes to the fields of its channel, and whether it uses the critical section. -/
structure FieldWrites where
  ocpe : Option Bool := none
  ocm : Option OcMode := none
  cce : Option Bool := none
  ccr : Option Half := none
  critical : Bool := false

/-- The field writes of R152, R154 and R156. -/
def fieldWrites : Instr → FieldWrites
  | .enable _ => { ocpe := some true, ocm := some pwmMode1, cce := some true, critical := true }
  | .disable _ => { cce := some false, critical := true }
  | .setDuty _ d => { ccr := some d }
  | .init _ | .assign _ _ | .getDuty _ | .getMaxDuty _ => {}

/-- The writes made; the critical section leaves the mask in `IRQSAVE` (R69). -/
def FieldWrites.apply (f : FieldWrites) (ch : Channel) (s : State) : State :=
  { s with ocpe := s.ocpe.put ch f.ocpe, ocm := s.ocm.put ch f.ocm, cce := s.cce.put ch f.cce,
           ccr := s.ccr.put ch f.ccr, irqSave := if f.critical then s.irqMask else s.irqSave }

/-- Writes to the fields of different channels commute (R73). -/
theorem FieldWrites.apply_comm (f g : FieldWrites) {c d : Channel} (h : c ≠ d) (s : State) :
    g.apply d (f.apply c s) = f.apply c (g.apply d s) := by
  simp only [apply, ByChannel.put_comm _ h]
  cases f.critical <;> cases g.critical <;> rfl

/-- The response of an admitted channel command (R152 to R158). -/
def channelAnswer (i : Instr) (s : State) : ResponseWord :=
  responseWord .ok (match i with
    | .getDuty ch => s.ccr.get ch
    | .getMaxDuty _ => s.arr
    | _ => 0#16)

theorem channelAnswer_apply {j : Instr} {c d : Channel} (hj : channelCommand j = some d) (h : d ≠ c) (f : FieldWrites)
    (s : State) : channelAnswer j (f.apply c s) = channelAnswer j s := by
  cases j with
  | getDuty ch =>
    obtain rfl : ch = d := Option.some.inj hj
    exact congrArg (responseWord .ok) (ByChannel.get_put_other s.ccr h f.ccr)
  | _ => rfl

/-- What an admitted channel command does outside the counter: its field writes and its response. -/
def channelEffect (i : Instr) (ch : Channel) (s : State) : State :=
  emit (.response (channelAnswer i s)) ((fieldWrites i).apply ch s)

theorem ignoresCounter_channelEffect (i : Instr) (ch : Channel) :
    IgnoresCounter fun s => withoutCounter (channelEffect i ch s) := by
  intro s
  cases i <;> rfl

/-- The micro-steps of a channel command. -/
def channelOps : Instr → List MicroOp
  | .enable ch => enableOps ch
  | .disable ch => disableOps ch
  | .getDuty ch => getDutyOps ch
  | .setDuty ch d => setDutyOps ch d
  | .getMaxDuty _ => getMaxDutyOps
  | .init _ | .assign _ _ => []

theorem planOf_channelCommand {i : Instr} {ch : Channel} {s : State} (hi : channelCommand i = some ch)
    (hadm : channelAdmitted ch s) : planOf i s = .ok (channelOps i) := by
  have hplan : ∀ ops, channelPlan ch s ops = .ok ops := fun ops => by
    rw [channelPlan, admission_eq_none_iff.2 hadm]
  cases i <;> cases hi <;> exact hplan _

/-- Without TICKs the micro-steps of a channel command come to its effect; `CCRA` is blotted out (R152 to R158). -/
theorem runUntimed_channelOps {i : Instr} {ch : Channel} (hi : channelCommand i = some ch) (w : Word) (s : State) :
    withoutCounter (runUntimed (channelOps i) w s) = withoutCounter (channelEffect i ch s) := by
  cases i with
  | init freq => cases hi
  | assign c pin => cases hi
  | enable c =>
    cases hi
    simp only [channelOps, enableOps, runUntimed, MicroOp.run, writeReg_mode, writeReg_enable]
    rfl
  | disable c =>
    cases hi
    simp only [channelOps, disableOps, runUntimed, MicroOp.run, writeReg_disable]
    rfl
  | getDuty c =>
    cases hi
    simp only [channelOps, getDutyOps, dutyReg, runUntimed, MicroOp.run, readReg, setWidth_half]
    rfl
  | setDuty c d =>
    cases hi
    simp only [channelOps, setDutyOps, runUntimed, MicroOp.run, writeReg_duty]
    rfl
  | getMaxDuty c =>
    cases hi
    simp only [channelOps, getMaxDutyOps, runUntimed, MicroOp.run, readReg, setWidth_half]
    rfl

theorem channelCommand_effect {i : Instr} {ch : Channel} {s : State} (hi : channelCommand i = some ch)
    (hadm : channelAdmitted ch s) :
    withoutCounter (perform (planOf i s) s) = withoutCounter (channelEffect i ch s) := by
  have hplan := planOf_channelCommand hi hadm
  rw [hplan]
  exact (runMicro_agrees_runUntimed (planOf_ok hplan).loads_no_cnt 0#32 rfl).trans (runUntimed_channelOps hi 0#32 s)

/-- Two admitted commands for different channels, one after the other: both answers are those of the first state. -/
theorem two_channelCommands {i j : Instr} {c d : Channel} {s : State} (hi : channelCommand i = some c)
    (hj : channelCommand j = some d) (hcd : c ≠ d) (hc : channelAdmitted c s) (hd : channelAdmitted d s) :
    ∃ t u, exec i s = .next t ∧ exec j t = .next u ∧ withoutCounter u =
      withoutCounter (emit (.response (channelAnswer j s)) (emit (.response (channelAnswer i s))
        ((fieldWrites j).apply d ((fieldWrites i).apply c s)))) := by
  have ht := channelCommand_effect hi hc
  have hadm : channelAdmitted d (perform (planOf i s) s) :=
    (IgnoresCounter.congr (f := channelAdmitted d) (fun _ => rfl) ht).mpr hd
  refine ⟨_, _, exec_eq_perform i s, exec_eq_perform j _, (channelCommand_effect hj hadm).trans ?_⟩
  rw [(ignoresCounter_channelEffect j d).congr ht, ← channelAnswer_apply hj hcd.symm (fieldWrites i) s]
  rfl

/-- Settles O28: field writes to different channels commute, and neither command's answer sees the other's writes. -/
theorem commandsForDifferentChannelsCommute : Obligations.CommandsForDifferentChannelsCommute := by
  intro i j c d s hi hj hcd hc hd
  obtain ⟨t, u, hit, hju, hu⟩ := two_channelCommands hi hj hcd hc hd
  obtain ⟨t', u', hjt', hiu', hu'⟩ := two_channelCommands hj hi hcd.symm hd hc
  have outputsOf : ∀ {a b : State}, withoutCounter a = withoutCounter b → responses a = responses b :=
    IgnoresCounter.congr fun _ => rfl
  have restOf : ∀ {a b : State}, withoutCounter a = withoutCounter b →
      withoutCounter { a with outputs := [] } = withoutCounter { b with outputs := [] } :=
    IgnoresCounter.congr (f := fun s => withoutCounter { s with outputs := [] }) fun _ => rfl
  refine ⟨t, u, t', u', channelAnswer i s, channelAnswer j s, hit, hju, hjt', hiu', ?_, outputsOf hu, outputsOf hu'⟩
  rw [restOf hu, restOf hu', FieldWrites.apply_comm _ _ hcd]
  rfl

end Sys2Proof.Machine
end

section
/-! PROOFS. The register space (R61, R62): which address is which word, what a word reads as after a write, and which
words a command leaves alone. -/

namespace Sys2Proof.Machine

/-! ### Words after a write -/

/-- The low half of a word, by mask or by width. -/
theorem and_lowHalf (v : Word) : v &&& 0x0000FFFF#32 = (v.setWidth 16).setWidth 32 := by
  apply BitVec.eq_of_toNat_eq
  rw [BitVec.toNat_and, BitVec.toNat_setWidth_of_le (by decide), BitVec.toNat_setWidth]
  exact Nat.and_two_pow_sub_one_eq_mod v.toNat 16

/-- A written word reads as its implemented bits (R62). -/
theorem readReg_writeReg_same (r : Reg) (v : Word) (s : State) : readReg r (writeReg r v s) = v &&& r.implemented := by
  cases r with
  | cr1 => exact (BitVec.and_one_eq_setWidth_ofBool_getLsbD (x := v)).symm
  | ccmr1 => exact modeWord_of_bits v
  | ccmr2 => exact modeWord_of_bits v
  | ccer => exact enableWord_of_bits v
  | ccr ch => simpa [readReg, writeReg, writeDuty, Reg.implemented] using (and_lowHalf v).symm
  | _ => exact (and_lowHalf v).symm

/-- A write to one register leaves every other word as it was (R62). -/
theorem readReg_writeReg_other {r r' : Reg} (h : r' ≠ r) (v : Word) (s : State) :
    readReg r' (writeReg r v s) = readReg r' s := by
  cases r with
  | ccr ch =>
    cases r' with
    | ccr c =>
      have hc : c ≠ ch := fun e => h (e ▸ rfl)
      exact congrArg (BitVec.setWidth 32) (ByChannel.get_set_other s.ccr _ hc)
    | _ => rfl
  | _ => cases r' <;> first | rfl | exact absurd rfl h

/-- A register word has nothing outside its implemented bits (R33). -/
theorem readReg_and_implemented (r : Reg) (s : State) : readReg r s &&& r.implemented = readReg r s := by
  have half : ∀ x : Half, x.setWidth 32 &&& 0x0000FFFF#32 = x.setWidth 32 := fun x => by
    rw [and_lowHalf, setWidth_half]
  have mode : ∀ lo hi : Bool × OcMode, modeWord lo hi &&& 0x00007878#32 = modeWord lo hi := fun lo hi => by
    rw [← modeWord_of_bits]
    obtain ⟨h1, h2, h3, h4⟩ := modeWord_fields lo hi
    rw [h1, h2, h3, h4]
  have enable : ∀ e, enableWord e &&& 0x00001111#32 = enableWord e := fun ⟨a, b, c, d⟩ => by
    revert a b c d; decide
  cases r with
  | cr1 => cases h : s.cen <;> simp [readReg, h, Reg.implemented]
  | ccmr1 => exact mode _ _
  | ccmr2 => exact mode _ _
  | ccer => exact enable s.cce
  | _ => exact half _

/-- Settles O46: the word just written, the reserved bits, and the frame, each by the kind of register. -/
theorem registerWordReadsAsWritten : Obligations.RegisterWordReadsAsWritten := by
  intro r r' v s
  refine ⟨readReg_writeReg_same r v s, ?_, fun h => readReg_writeReg_other h v s⟩
  rw [← readReg_and_implemented r s, BitVec.and_assoc, BitVec.and_not_self]
  exact BitVec.and_zero

/-! ### Addresses -/

@[simp] theorem busTarget_offset (r : Reg) : busTarget r.offset = .reg r := by
  cases r with
  | ccr ch => cases ch <;> rfl
  | _ => rfl

/-- Only a register's own offset names it (R61). -/
theorem busTarget_eq_reg {off : Nat} {r : Reg} (h : busTarget off = .reg r) : off = r.offset := by
  unfold busTarget at h
  split at h <;> cases h <;> rfl

/-- The block has no word past offset `0x43` or at an offset that is not a multiple of 4 (R61, R64). -/
theorem busTarget_absent {off : Nat} (h : 0x43 < off ∨ off % 4 ≠ 0) : busTarget off = .absent := by
  unfold busTarget
  split <;> first | rfl | omega

theorem addressTarget_base_add (off : Nat) (s : State) : addressTarget (s.cfg.base + off) s = busTarget off := by
  simp [addressTarget]

/-- An address of a register is `BASE` plus its offset (R60, R61). -/
theorem addressTarget_eq_reg {addr : Nat} {s : State} {r : Reg} (h : addressTarget addr s = .reg r) :
    addr = s.cfg.base + r.offset := by
  unfold addressTarget at h
  split at h
  · have := busTarget_eq_reg h
    omega
  · cases h

theorem addressTarget_absent {addr : Nat} {s : State}
    (h : addr < s.cfg.base ∨ s.cfg.base + 0x43 < addr ∨ addr % 4 ≠ 0) : addressTarget addr s = .absent := by
  have haligned : s.cfg.base % 4 = 0 := Nat.mul_mod_right 4 s.cfg.baseWord
  unfold addressTarget
  split
  · exact busTarget_absent (by omega)
  · rfl

/-- Settles O45: the target of each kind of address decides the access. -/
theorem busReachesExactlyTheRegisterMap : Obligations.BusReachesExactlyTheRegisterMap := by
  intro s v
  refine ⟨fun r => ?_, fun off hoff => ?_, fun addr haddr => ?_⟩
  · simp [busRead, busWrite, addressTarget_base_add]
  · have hres : busTarget off = .reserved := by
      simp only [List.mem_cons, List.not_mem_nil, or_false] at hoff
      rcases hoff with rfl | rfl | rfl | rfl | rfl | rfl <;> rfl
    simp [busRead, busWrite, addressTarget_base_add, hres]
  · simp [busRead, busWrite, addressTarget_absent haddr]

/-! ### The frame of a command -/

/-- The reset pulse stores to every register (R121). -/
theorem mem_storesOf_peripheralReset (r : Reg) : r ∈ storesOf .peripheralReset := by
  cases r with
  | ccr ch => cases ch <;> decide
  | _ => decide

/-- A micro-step changes no word but those it stores to. -/
theorem MicroOp.readReg_run {op : MicroOp} {r : Reg} (hr : r ∉ storesOf op) (w : Word) (s : State) :
    readReg r (op.run w s).2 = readReg r s := by
  cases op with
  | modify r' clear set => exact readReg_writeReg_other (by simpa [storesOf] using hr) _ s
  | store r' v => exact readReg_writeReg_other (by simpa [storesOf] using hr) v s
  | peripheralReset => exact absurd (mem_storesOf_peripheralReset r) hr
  | _ => cases r <;> rfl

/-- TICKs change no word but `CNT` (R71). -/
theorem readReg_dueTicks {r : Reg} (hr : r ≠ .cnt) (s : State) : readReg r (dueTicks s) = readReg r s := by
  rw [← readReg_withoutCounter hr, withoutCounter_dueTicks, readReg_withoutCounter hr]

theorem readReg_runMicro {ops : List MicroOp} {r : Reg} (hcnt : r ≠ .cnt) (hr : r ∉ ops.flatMap storesOf) (w : Word)
    (s : State) : readReg r (runMicro ops w s) = readReg r s := by
  induction ops generalizing w s with
  | nil => rfl
  | cons op ops ih =>
    simp only [List.flatMap_cons, List.mem_append, not_or] at hr
    obtain ⟨hop, hops⟩ := hr
    rw [runMicro, ih hops, MicroOp.readReg_run hop, readReg_dueTicks hcnt]

theorem runMicro_cfg (ops : List MicroOp) (w : Word) (s : State) : (runMicro ops w s).cfg = s.cfg := by
  induction ops generalizing w s with
  | nil => rfl
  | cons op ops ih =>
    obtain ⟨-, -, hcfg⟩ := op.run_ports w (dueTicks s)
    rw [runMicro, ih, hcfg, dueTicks_cfg]

/-- What the bus reads is settled by the configuration and the word of the register at that address, if any. -/
theorem busRead_congr {addr : Nat} {s t : State} (hcfg : t.cfg = s.cfg)
    (hreg : ∀ r, addr = s.cfg.base + r.offset → readReg r t = readReg r s) : busRead addr t = busRead addr s := by
  have htarget : addressTarget addr t = addressTarget addr s := by simp only [addressTarget, hcfg]
  unfold busRead
  rw [htarget]
  cases h : addressTarget addr s with
  | reg r => exact congrArg Except.ok (hreg r (addressTarget_eq_reg h))
  | _ => rfl

/-- Settles O47: neither the TICKs nor the micro-steps of a plan change a word that is not listed. -/
theorem commandsStoreOnlyToTheirRegisters : Obligations.CommandsStoreOnlyToTheirRegisters := by
  intro i s t addr h hstored hcnt
  obtain rfl := exec_eq_next_iff.1 h
  unfold storedAddresses at hstored
  cases hp : planOf i s with
  | error st => exact busRead_congr rfl fun r _ => by cases r <;> rfl
  | ok ops =>
    rw [hp] at hstored
    refine busRead_congr (runMicro_cfg ops 0#32 s) fun r haddr => ?_
    subst haddr
    exact readReg_runMicro (fun e => hcnt (e ▸ rfl)) (fun hr => hstored (List.mem_map_of_mem hr)) 0#32 s

end Sys2Proof.Machine
end

section
/-! PROOFS. What another requester can observe: a handler, of the instants of a command (R69, R247), and the
other timers, of a step (R73, R193). -/

namespace Sys2Proof.Machine

/-! ### The mode and enable fields along a command -/

/-- The preload, mode and enable fields of all channels (R25, R26). -/
def modeFields (s : State) : ByChannel Bool × ByChannel OcMode × ByChannel Bool := (s.ocpe, s.ocm, s.cce)

/-- The registers that hold these fields. -/
def Reg.holdsMode : Reg → Bool
  | .ccmr1 | .ccmr2 | .ccer => true
  | _ => false

/-- The micro-steps that leave these fields as they are. -/
def MicroOp.keepsMode : MicroOp → Bool
  | .modify r _ _ | .store r _ => !r.holdsMode
  | .peripheralReset => false
  | _ => true

theorem modeFields_writeReg {r : Reg} (h : r.holdsMode = false) (v : Word) (s : State) :
    modeFields (writeReg r v s) = modeFields s := by
  cases r <;> first | rfl | cases h

theorem MicroOp.modeFields_run {op : MicroOp} (h : op.keepsMode = true) (w : Word) (s : State) :
    modeFields (op.run w s).2 = modeFields s := by
  cases op with
  | modify r clear set => exact modeFields_writeReg (by simpa [keepsMode] using h) _ s
  | store r v => exact modeFields_writeReg (by simpa [keepsMode] using h) v s
  | peripheralReset => cases h
  | _ => rfl

@[simp] theorem modeFields_dueTicks (s : State) : modeFields (dueTicks s) = modeFields s := by simp [modeFields]

theorem MicroOp.irqMask_run {op : MicroOp} (h : ∀ p, op.maskEffect p = p) (w : Word) (s : State) :
    (op.run w s).2.irqMask = s.irqMask :=
  congrArg Prod.fst ((op.run_mask w s).trans (h _))

/-- An instant of a command is before its first micro-step is done, where only TICKs have happened, or is one of the
rest. -/
theorem mem_microInstants_cons {op : MicroOp} {ops : List MicroOp} {w : Word} {s u : State}
    (hu : u ∈ microInstants (op :: ops) w s) :
    (modeFields u = modeFields s ∧ u.irqMask = s.irqMask) ∨
      u ∈ microInstants ops (op.run w (dueTicks s)).1 (op.run w (dueTicks s)).2 := by
  rcases List.mem_cons.1 hu with rfl | hu
  · exact .inl ⟨rfl, rfl⟩
  · rcases List.mem_append.1 hu with hu | hu
    · obtain ⟨k, -, rfl⟩ := mem_dueTrail hu
      exact .inl ⟨by simp [modeFields], by simp⟩
    · exact .inr hu

/-! ### Micro-steps that show no half-configured channel -/

/-- Every instant has the fields as they are at the start. -/
def KeepsMode (ops : List MicroOp) : Prop :=
  ∀ w s, ∀ u ∈ microInstants ops w s, modeFields u = modeFields s

/-- At every instant at which a handler could start, the fields are all as at the start or all as at the end. -/
def ShowsNoHalf (ops : List MicroOp) : Prop :=
  ∀ w s, ∀ u ∈ microInstants ops w s, u.irqMask = false →
    modeFields u = modeFields s ∨ modeFields u = modeFields (runMicro ops w s)

/-- Begun in a critical section: at every instant at which a handler could start, the fields are as at the end. -/
def MaskedUntilDone (ops : List MicroOp) : Prop :=
  ∀ w s, s.irqMask = true → ∀ u ∈ microInstants ops w s, u.irqMask = false →
    modeFields u = modeFields (runMicro ops w s)

variable {op : MicroOp} {ops : List MicroOp}

theorem keepsMode_of_all (h : ∀ op ∈ ops, op.keepsMode = true) : KeepsMode ops := by
  induction ops with
  | nil => intro w s u hu; rw [List.mem_singleton.1 hu]
  | cons op ops ih =>
    intro w s u hu
    obtain ⟨hop, hops⟩ := List.forall_mem_cons.1 h
    rcases mem_microInstants_cons hu with ⟨hfields, -⟩ | hu
    · exact hfields
    · rw [ih hops _ _ u hu, MicroOp.modeFields_run hop, modeFields_dueTicks]

theorem KeepsMode.modeFields_eq_end (h : KeepsMode ops) {w : Word} {s u : State} (hu : u ∈ microInstants ops w s) :
    modeFields u = modeFields (runMicro ops w s) :=
  (h w s u hu).trans (h w s _ (List.mem_of_getLast? (microInstants_last ops w s))).symm

theorem KeepsMode.showsNoHalf (h : KeepsMode ops) : ShowsNoHalf ops := fun w s u hu _ => .inl (h w s u hu)

/-- One write of the fields, whatever it writes, is one instant. -/
theorem KeepsMode.showsNoHalf_cons (op : MicroOp) (h : KeepsMode ops) : ShowsNoHalf (op :: ops) := by
  intro w s u hu _
  rcases mem_microInstants_cons hu with ⟨hfields, -⟩ | hu
  · exact .inl hfields
  · exact .inr (h.modeFields_eq_end hu)

theorem ShowsNoHalf.cons (h : ShowsNoHalf ops) (hop : op.keepsMode = true) : ShowsNoHalf (op :: ops) := by
  intro w s u hu hmask
  rcases mem_microInstants_cons hu with ⟨hfields, -⟩ | hu
  · exact .inl hfields
  · rcases h _ _ u hu hmask with hstart | hend
    · exact .inl (by rw [hstart, MicroOp.modeFields_run hop, modeFields_dueTicks])
    · exact .inr hend

theorem KeepsMode.maskedUntilDone (h : KeepsMode ops) : MaskedUntilDone ops := fun _ _ _ _ hu _ =>
  h.modeFields_eq_end hu

theorem MaskedUntilDone.cons (h : MaskedUntilDone ops) (hop : ∀ p, op.maskEffect p = p) :
    MaskedUntilDone (op :: ops) := by
  intro w s hs u hu hmask
  rcases mem_microInstants_cons hu with ⟨-, hsame⟩ | hu
  · rw [hmask, hs] at hsame; cases hsame
  · exact h _ _ (by rw [MicroOp.irqMask_run hop, dueTicks_irqMask, hs]) u hu hmask

/-- `CS_ENTER()` hides what follows until it is done (R69). -/
theorem ShowsNoHalf.csEnter (h : MaskedUntilDone ops) : ShowsNoHalf (.csEnter :: ops) := by
  intro w s u hu hmask
  rcases mem_microInstants_cons hu with ⟨hfields, -⟩ | hu
  · exact .inl hfields
  · exact .inr (h _ _ rfl u hu hmask)

theorem keepsMode_exit : KeepsMode [.csExit, .reply] := keepsMode_of_all (by simp [MicroOp.keepsMode])

/-- Every plan: INIT writes the fields in its reset pulse only, ENABLE and DISABLE in their critical section only, and
the others not at all. -/
theorem OkPlan.showsNoHalf {s : State} {i : Instr} (h : OkPlan s i ops) : ShowsNoHalf ops := by
  cases h with
  | initFault _ _ _ =>
    exact .cons ((keepsMode_of_all (by simp [MicroOp.keepsMode])).showsNoHalf_cons .peripheralReset) rfl
  | initDone _ _ _ =>
    exact .cons ((keepsMode_of_all (by simp [MicroOp.keepsMode, Reg.holdsMode])).showsNoHalf_cons .peripheralReset) rfl
  | assign _ _ _ _ _ => exact (keepsMode_of_all (by simp [MicroOp.keepsMode])).showsNoHalf
  | enable _ =>
    exact .csEnter <| .cons (.cons (.cons (.cons keepsMode_exit.maskedUntilDone fun _ => rfl) fun _ => rfl)
      fun _ => rfl) fun _ => rfl
  | disable _ => exact .csEnter <| .cons (.cons keepsMode_exit.maskedUntilDone fun _ => rfl) fun _ => rfl
  | getDuty _ => exact (keepsMode_of_all (by simp [getDutyOps, MicroOp.keepsMode])).showsNoHalf
  | setDuty _ =>
    exact (keepsMode_of_all (by simp [setDutyOps, dutyReg, MicroOp.keepsMode, Reg.holdsMode])).showsNoHalf
  | getMaxDuty _ => exact (keepsMode_of_all (by simp [getMaxDutyOps, MicroOp.keepsMode])).showsNoHalf

theorem modeFields_eq_iff {s u : State} :
    modeFields u = modeFields s ↔ u.ocpe = s.ocpe ∧ u.ocm = s.ocm ∧ u.cce = s.cce := by
  simp only [modeFields, Prod.mk.injEq]

/-- Settles O32: no plan shows a half-configured channel, and a refusal leaves the fields as they are. -/
theorem noHandlerSeesAHalfConfiguredChannel : Obligations.NoHandlerSeesAHalfConfiguredChannel := by
  intro i s t u h hu hmask
  obtain rfl := exec_eq_next_iff.1 h
  rw [← modeFields_eq_iff, ← modeFields_eq_iff]
  unfold instants at hu
  cases hp : planOf i s with
  | error st =>
    rw [hp] at hu
    simp only [planInstants, List.mem_cons, List.not_mem_nil, or_false] at hu
    rcases hu with rfl | rfl <;> exact .inl rfl
  | ok ops =>
    rw [hp] at hu
    exact (planOf_ok hp).showsNoHalf 0#32 s u hu hmask

/-! ### Steps -/

/-- Settles O8: the input is taken, decoded and run. -/
theorem stepRunsTheDecodedCommand : Obligations.StepRunsTheDecodedCommand := by
  intro s cw rest i hin hdec
  simp only [step, stepOnce, hin, accept, issue, hdec]

/-- Every step has a next state: nothing stops the block (R240). -/
theorem step_total (s : State) : ∃ t, step s = .next t := by
  obtain ⟨t, -, ht, -⟩ := ticksAreInvisibleToRequesters.2 s s rfl
  exact ⟨t, ht⟩

/-! ### Several instances -/

/-- An ASSIGN waiting at one of several instances asks which pins the others own (R193). -/
theorem stepAmong_assign {elsewhere : PinId → Bool} {s : State} {cw : CommandWord} {rest : List Input} {ch : Channel}
    {pin : PinId} (hin : s.inputs = .command cw :: rest) (hdec : decode cw = .ok (.assign ch pin)) :
    stepAmong elsewhere s =
      .next (perform (planAssignAmong elsewhere ch pin { s with inputs := rest }) { s with inputs := rest }) := by
  simp only [stepAmong, hin, hdec]

theorem systemStep_of_next {k : Nat} {sys : System} {s t : State} (hs : sys.timers[k]? = some s)
    (ht : stepAmong (ownedElsewhere sys k) s = .next t) :
    systemStep k sys = some (.next ⟨sys.timers.set k t⟩) := by
  simp only [systemStep, hs, Option.map_some, ht]

/-- A system steps by a step of timer `k` only (R73). -/
theorem systemStep_cases {k : Nat} {sys sys' : System} (h : systemStep k sys = some (.next sys')) :
    ∃ s t, sys.timers[k]? = some s ∧ stepAmong (ownedElsewhere sys k) s = .next t ∧ sys' = ⟨sys.timers.set k t⟩ := by
  obtain ⟨s, hs, h⟩ := Option.map_eq_some_iff.1 h
  cases ht : stepAmong (ownedElsewhere sys k) s with
  | next t => rw [ht] at h; exact ⟨s, t, hs, ht, (Host.Outcome.next.inj h).symm⟩
  | fault f => rw [ht] at h; cases h
  | refused r => rw [ht] at h; cases h

theorem getElem?_set_self_of_some {k : Nat} {l : List State} {s : State} (hs : l[k]? = some s) (t : State) :
    (l.set k t)[k]? = some t := by
  obtain ⟨hk, -⟩ := List.getElem?_eq_some_iff.1 hs
  exact List.getElem?_set_self hk

theorem owned_of_assigned {u : State} {c : Channel} {pin : PinId} (h : u.chstate.get c = .assigned pin) :
    owned u pin = true := by
  by_contra hno
  exact owned_eq_false_iff.1 (Bool.eq_false_of_not_eq_true hno) c h

/-- A pin of another timer is owned elsewhere (R193). -/
theorem ownedElsewhere_of_assigned {k j : Nat} {sys : System} {u : State} {c : Channel} {pin : PinId} (hjk : j ≠ k)
    (hu : sys.timers[j]? = some u) (hpin : u.chstate.get c = .assigned pin) : ownedElsewhere sys k pin = true := by
  refine List.any_eq_true.2 ⟨(u, j), List.mem_zipIdx_iff_getElem?.2 hu, ?_⟩
  simp [hjk, owned_of_assigned hpin]

/-- ASSIGN of a pin owned elsewhere, its other tests passed (R190, R193). -/
theorem planAssignAmong_pinInUse {elsewhere : PinId → Bool} {s : State} {ch : Channel} {pin : PinId} {sel : AfSel}
    (hhalt : s.halt = false) (hinit : s.initialized = true) (hfree : s.chstate.get ch = .unassigned)
    (hbind : bindLookup s.cfg pin ch = some sel) (hpin : elsewhere pin = true) :
    planAssignAmong elsewhere ch pin s = .error .pinInUse := by
  simp [planAssignAmong, hhalt, hinit, hfree, hbind, hpin]

/-- Settles O36: a step of the system is a step of one timer, which sees of the others the pins they own only. -/
theorem instancesShareOnlyTheOwnedPins : Obligations.InstancesShareOnlyTheOwnedPins := by
  refine ⟨?_, ?_, ?_, ?_⟩
  · intro k j sys sys' h hjk
    obtain ⟨s, t, -, -, rfl⟩ := systemStep_cases h
    exact List.getElem?_set_ne hjk.symm
  · intro k j sys s u cw rest ch c pin sel hjk hs hu hin hdec hhalt hinit hfree hbind hpin
    have helse := ownedElsewhere_of_assigned hjk hu hpin
    refine systemStep_of_next hs ((stepAmong_assign hin hdec).trans ?_)
    rw [planAssignAmong_pinInUse (s := { s with inputs := rest }) hhalt hinit hfree hbind helse]
    rfl
  · intro k sys₁ sys₂ sys₁' hk howned h
    obtain ⟨s, t, hs, ht, rfl⟩ := systemStep_cases h
    have hs₂ : sys₂.timers[k]? = some s := hk ▸ hs
    rw [show ownedElsewhere sys₁ k = ownedElsewhere sys₂ k from funext howned] at ht
    exact ⟨_, systemStep_of_next hs₂ ht,
      (getElem?_set_self_of_some hs₂ t).trans (getElem?_set_self_of_some hs t).symm⟩
  · intro k sys s hs hnone
    obtain ⟨t, ht⟩ := step_total s
    refine ⟨t, ht, systemStep_of_next hs ?_⟩
    rw [show ownedElsewhere sys k = fun _ => false from funext hnone, stepAmong_none, ht]

end Sys2Proof.Machine
end

section
/-! PROOFS. The encoding (spec/30_encoding.md): a word hits a row of R92 exactly when its fields have the row's form, so
decoding and encoding are inverse to each other and the illegal words are those of R94; what a source command stands
for (R98); and the one response to every command word (R96). -/

namespace Sys2Proof

/-! ### Immediates with their high bits clear -/

theorem highBits_eq_zero_iff {v : BitVec 32} {k n : Nat} (hk : k + n = 32) :
    v.extractLsb' k n = 0#n ↔ v.toNat < 2 ^ k := by
  have hlt : v.toNat / 2 ^ k < 2 ^ n := Nat.div_lt_of_lt_mul (by rw [← pow_add, hk]; exact v.isLt)
  rw [BitVec.toNat_eq, BitVec.extractLsb'_toNat, Nat.shiftRight_eq_div_pow, Nat.mod_eq_of_lt hlt]
  simp

/-- Masking with ones from bit `k` up tests the bits from `k` up. -/
theorem and_highOnes_eq_zero_iff {v : BitVec 32} {k n : Nat} (hk : k + n = 32) :
    v &&& BitVec.allOnes 32 <<< k = 0#32 ↔ v.extractLsb' k n = 0#n := by
  have hle : v.toNat / 2 ^ k * 2 ^ k < 2 ^ 32 := (Nat.div_mul_le_self _ _).trans_lt v.isLt
  rw [highBits_eq_zero_iff hk, ← BitVec.shiftLeft_ushiftRight, BitVec.toNat_eq, BitVec.toNat_shiftLeft,
    BitVec.toNat_ushiftRight, Nat.shiftRight_eq_div_pow, Nat.shiftLeft_eq, Nat.mod_eq_of_lt hle]
  simp

/-- An immediate whose bits from `k` up are 0 is its low `k` bits, zero-extended. -/
theorem setWidth_lowBits {v : BitVec 32} {k n : Nat} (hk : k + n = 32) (h : v.extractLsb' k n = 0#n) :
    (v.extractLsb' 0 k).setWidth 32 = v := by
  have hlt := (highBits_eq_zero_iff hk).1 h
  apply BitVec.eq_of_toNat_eq
  simp [Nat.mod_eq_of_lt hlt, Nat.mod_eq_of_lt v.isLt]

/-! ### Rows of the opcode map -/

theorem append_fields (cw : CommandWord) : opField cw ++ chField cw ++ rsvField cw ++ immField cw = cw := by
  unfold opField chField rsvField immField
  simp only [BitVec.extractLsb'_append_extractLsb'_eq_extractLsb']
  exact BitVec.extractLsb'_eq_self

/-- Two command words are equal when their four fields are (R90). -/
theorem eq_iff_fields {a b : CommandWord} :
    a = b ↔ opField a = opField b ∧ rsvField a = rsvField b ∧ chField a = chField b ∧ immField a = immField b := by
  refine ⟨fun h => by simp [h], fun ⟨hop, hrsv, hch, himm⟩ => ?_⟩
  rw [← append_fields a, ← append_fields b, hop, hch, hrsv, himm]

/-- A word hits a row when each of its fields does. -/
theorem OpRow.hits_iff_fields {r : OpRow} {cw : CommandWord} :
    r.hits cw = true ↔
      opField cw &&& opField r.mask = opField r.pat ∧ rsvField cw &&& rsvField r.mask = rsvField r.pat ∧
      chField cw &&& chField r.mask = chField r.pat ∧ immField cw &&& immField r.mask = immField r.pat := by
  simp only [OpRow.hits, beq_iff_eq, eq_iff_fields (b := r.pat), opField, chField, rsvField, immField,
    BitVec.extractLsb'_and]

/-- The opcode of a row (R92). -/
def Op.code : Op → BitVec 4
  | .init => 0x1#4 | .assign => 0x2#4 | .enable => 0x3#4 | .disable => 0x4#4 | .getDuty => 0x5#4
  | .setDuty => 0x6#4 | .getMaxDuty => 0x7#4

/-- The bits of `CH` and `IMM` that are in no operand of the row are 0 (R92, R94). -/
def Op.unusedBitsZero (ch : BitVec 2) (imm : BitVec 32) : Op → Prop
  | .init => ch = 0b00#2
  | .assign => imm.extractLsb' 8 24 = 0#24
  | .setDuty => imm.extractLsb' 16 16 = 0#16
  | .enable | .disable | .getDuty | .getMaxDuty => imm = 0#32

/-- The word has the form of the row: its opcode, `RSV = 0b00`, and no set bit outside the operands (R92, R94). -/
def Op.Fits (o : Op) (cw : CommandWord) : Prop :=
  opField cw = o.code ∧ rsvField cw = 0b00#2 ∧ o.unusedBitsZero (chField cw) (immField cw)

/-- Mask and pattern of a row say what its form says. -/
theorem OpRow.hits_iff_fits {r : OpRow} (hr : r ∈ opcodeMap) {cw : CommandWord} : r.hits cw = true ↔ r.op.Fits cw := by
  have hones2 (v : BitVec 2) : v &&& 0b11#2 = v := BitVec.and_allOnes
  have hones4 (v : BitVec 4) : v &&& 0xF#4 = v := BitVec.and_allOnes
  have hones32 (v : BitVec 32) : v &&& 0xFFFFFFFF#32 = v := BitVec.and_allOnes
  have hpin (v : BitVec 32) : v &&& 0xFFFFFF00#32 = 0#32 ↔ v.extractLsb' 8 24 = 0#24 :=
    and_highOnes_eq_zero_iff (k := 8) rfl
  have hduty (v : BitVec 32) : v &&& 0xFFFF0000#32 = 0#32 ↔ v.extractLsb' 16 16 = 0#16 :=
    and_highOnes_eq_zero_iff (k := 16) rfl
  rw [hits_iff_fields, Op.Fits]
  generalize opField cw = op, chField cw = ch, rsvField cw = rsv, immField cw = imm
  fin_cases hr <;>
    simp [opField, chField, rsvField, immField, Op.code, Op.unusedBitsZero, hones2, hones4, hones32, hpin, hduty]

theorem Op.exists_row (o : Op) : ∃ r ∈ opcodeMap, r.op = o := by
  cases o <;> decide

/-- "No two rows match the same word" (R92): any two differ on a bit both mask in. -/
theorem OpRow.eq_of_hits {r r' : OpRow} {cw : CommandWord} (hr : r ∈ opcodeMap) (hr' : r' ∈ opcodeMap)
    (h : r.hits cw = true) (h' : r'.hits cw = true) : r = r' := by
  have hexcl : opcodeMap.Pairwise fun r r' => r.hits cw = true → r'.hits cw = true → r = r' :=
    opcodeMap_rows_differ.imp fun hd h h' => absurd h' (by simp [hits_exclusive hd h])
  have hsymm : Std.Symm fun r r' : OpRow => r.hits cw = true → r'.hits cw = true → r = r' :=
    ⟨fun _ _ heq h h' => (heq h' h).symm⟩
  exact hexcl.forall_of_forall (fun _ _ _ _ => rfl) hr hr' h h'

/-! ### Decoding -/

theorem decode_of_hits {r : OpRow} {cw : CommandWord} (hr : r ∈ opcodeMap) (h : r.hits cw = true) :
    decode cw = .ok (assemble r.op cw) := by
  unfold decode
  split
  · next r' hfind =>
    have hhit : r'.hits cw = true := by simpa using List.find?_some hfind
    rw [OpRow.eq_of_hits (List.mem_of_find?_eq_some hfind) hr hhit h]
  · next hfind => exact absurd h (List.find?_eq_none.1 hfind r hr)

theorem decode_of_hits_none {cw : CommandWord} (h : ∀ r ∈ opcodeMap, r.hits cw = false) :
    decode cw = .error (whyIllegal cw) := by
  have hfind : opcodeMap.find? (fun r => r.hits cw) = none := List.find?_eq_none.2 fun r hr => by simp [h r hr]
  simp only [decode, hfind]

/-- A word is illegal exactly when it has the form of no row (R94). -/
theorem decode_error_iff_fits_none {cw : CommandWord} : (∃ why, decode cw = .error why) ↔ ∀ o : Op, ¬ o.Fits cw := by
  constructor
  · rintro ⟨why, hwhy⟩ o hfits
    obtain ⟨r, hr, rfl⟩ := o.exists_row
    cases hwhy.symm.trans (decode_of_hits hr ((OpRow.hits_iff_fits hr).2 hfits))
  · intro h
    exact ⟨_, decode_of_hits_none fun r hr => by
      simpa using mt (OpRow.hits_iff_fits hr).1 (h r.op)⟩

/-- Settles O3: of two different rows, each masks in a bit that tells them apart. -/
theorem atMostOneRowMatchesAWord : Obligations.AtMostOneRowMatchesAWord :=
  fun _ _ _ hr hr' h h' => OpRow.eq_of_hits hr hr' h h'

/-- Settles O4: the first row that matches is the only one, and `find?` misses none. -/
theorem decodeFollowsTheMatchingRow : Obligations.DecodeFollowsTheMatchingRow := by
  intro cw
  constructor
  · intro r hr h
    exact decode_of_hits hr (beq_iff_eq.2 h)
  · intro h
    exact ⟨_, decode_of_hits_none fun r hr => beq_eq_false_iff_ne.2 (h r hr)⟩

/-- Settles O6: the decoder is run on each word. -/
theorem workedEncodingsDecode : Obligations.WorkedEncodingsDecode := by
  unfold Obligations.WorkedEncodingsDecode
  decide

/-! ### Encoding and decoding -/

/-- The encoding of a command is a word of a row of R92, and that row's operands are the command's. -/
theorem encode_hits (i : Instr) : Laws.Encoding.Statement i := by
  cases i with
  | init freq => exact Laws.Encoding.init freq
  | assign ch pin => exact Laws.Encoding.assign ch pin
  | enable ch => exact Laws.Encoding.enable ch
  | disable ch => exact Laws.Encoding.disable ch
  | getDuty ch => exact Laws.Encoding.getDuty ch
  | setDuty ch value => exact Laws.Encoding.setDuty ch value
  | getMaxDuty ch => exact Laws.Encoding.getMaxDuty ch

/-- The operands of a word and its opcode are its fields `CH` and `IMM` again, if no other bit of them is set. -/
theorem encode_assemble {o : Op} {cw : CommandWord} (h : o.unusedBitsZero (chField cw) (immField cw)) :
    encode (assemble o cw) = layout o.code (chField cw) (immField cw) := by
  cases o with
  | init => exact congrArg (layout _ · _) (Eq.symm h)
  | assign => simp only [assemble, encode, chOf, Channel.field_ofField, setWidth_lowBits rfl h, Op.code]
  | setDuty => simp only [assemble, encode, chOf, Channel.field_ofField, setWidth_lowBits rfl h, Op.code]
  | enable | disable | getDuty | getMaxDuty =>
    have himm : immField cw = 0#32 := h
    simp only [assemble, encode, chOf, Channel.field_ofField, himm, Op.code]

/-- Settles O1: the row that the encoding hits is the one the decoder finds. -/
theorem decodeOfEncodeIsTheCommand : Obligations.DecodeOfEncodeIsTheCommand := by
  intro i
  obtain ⟨r, hr, hhit, hasm⟩ := encode_hits i
  rw [decode_of_hits hr hhit, hasm]

/-- Settles O2: the word has the form of the row it hits, so its opcode and operands determine it. -/
theorem decodedWordIsTheEncodingOfItsCommand : Obligations.DecodedWordIsTheEncodingOfItsCommand := by
  intro cw i h
  obtain ⟨r, hr, hhit, rfl⟩ := decode_ok h
  obtain ⟨hop, hrsv, hunused⟩ := (OpRow.hits_iff_fits hr).1 hhit
  rw [encode_assemble hunused, ← hop, layout_fields cw hrsv]

/-! ### Illegal words -/

theorem Op.code_injective {o o' : Op} (h : o.code = o'.code) : o = o' := by
  have hrows : ∀ r ∈ opcodeMap, ∀ r' ∈ opcodeMap, r.op.code = r'.op.code → r.op = r'.op := by decide
  obtain ⟨r, hr, rfl⟩ := o.exists_row
  obtain ⟨r', hr', rfl⟩ := o'.exists_row
  exact hrows r hr r' hr' h

/-- An opcode is reserved exactly when no row has it (R94). -/
theorem opcode_not_reserved_iff {v : BitVec 4} : ¬ (v = 0x0#4 ∨ 0x8#4 ≤ v) ↔ ∃ r ∈ opcodeMap, v = r.op.code := by
  revert v; decide

theorem Op.Fits.not_reserved {o : Op} {cw : CommandWord} (h : o.Fits cw) :
    ¬ (opField cw = 0x0#4 ∨ 0x8#4 ≤ opField cw) := by
  obtain ⟨r, hr, rfl⟩ := o.exists_row
  exact opcode_not_reserved_iff.2 ⟨r, hr, h.1⟩

/-- A word with the opcode of a row has the form of that row or of none. -/
theorem fits_none_iff {o : Op} {cw : CommandWord} (hop : opField cw = o.code) :
    (∀ o' : Op, ¬ o'.Fits cw) ↔ rsvField cw ≠ 0b00#2 ∨ ¬ o.unusedBitsZero (chField cw) (immField cw) := by
  rw [← not_and_or]
  constructor
  · exact fun h hform => h o ⟨hop, hform⟩
  · rintro hform o' ⟨hop', hform'⟩
    obtain rfl := Op.code_injective (hop.symm.trans hop')
    exact hform hform'

/-- The list of R94. -/
theorem decode_error_iff_listed (cw : CommandWord) : (∃ why, decode cw = .error why) ↔
    (opField cw = 0x0#4 ∨ 0x8#4 ≤ opField cw ∨ rsvField cw ≠ 0b00#2 ∨
      (opField cw = 0x1#4 ∧ chField cw ≠ 0b00#2) ∨
      ((opField cw = 0x3#4 ∨ opField cw = 0x4#4 ∨ opField cw = 0x5#4 ∨ opField cw = 0x7#4) ∧ immField cw ≠ 0#32) ∨
      (opField cw = 0x2#4 ∧ (immField cw).extractLsb' 8 24 ≠ 0#24) ∨
      (opField cw = 0x6#4 ∧ (immField cw).extractLsb' 16 16 ≠ 0#16)) := by
  rw [decode_error_iff_fits_none]
  by_cases hres : opField cw = 0x0#4 ∨ 0x8#4 ≤ opField cw
  · have hnone : ∀ o : Op, ¬ o.Fits cw := fun o hfits => hfits.not_reserved hres
    exact iff_of_true hnone (or_assoc.1 (.inl hres))
  · obtain ⟨r, hr, hop⟩ := opcode_not_reserved_iff.1 hres
    rw [fits_none_iff hop, hop]
    cases r.op <;> simp [Op.code, Op.unusedBitsZero]

/-! ### Source commands -/

@[simp] theorem Channel.ofNum?_num (ch : Channel) : Channel.ofNum? ch.num = some ch := by cases ch <;> rfl

@[simp] theorem channelInRange_num (ch : Channel) : channelInRange ch.num = true := by cases ch <;> rfl

theorem exists_num_of_channelInRange {n : Nat} (h : channelInRange n = true) : ∃ ch : Channel, ch.num = n := by
  obtain ⟨h1, h4⟩ : 1 ≤ n ∧ n ≤ 4 := of_decide_eq_true h
  interval_cases n
  exacts [⟨.c1, rfl⟩, ⟨.c2, rfl⟩, ⟨.c3, rfl⟩, ⟨.c4, rfl⟩]

/-- The operands of every command are in the ranges of R93. -/
theorem wellFormed_ofInstr (i : Instr) : (SourceCommand.ofInstr i).wellFormed = true := by
  cases i with
  | init freq => exact decide_eq_true freq.isLt
  | assign ch pin => simpa [SourceCommand.ofInstr, SourceCommand.wellFormed] using pin.isLt
  | setDuty ch value => simpa [SourceCommand.ofInstr, SourceCommand.wellFormed] using value.isLt
  | enable ch | disable ch | getDuty ch | getMaxDuty ch => exact channelInRange_num ch

theorem toInstr?_ofInstr (i : Instr) : (SourceCommand.ofInstr i).toInstr? = some i := by
  unfold SourceCommand.toInstr?
  rw [if_pos (wellFormed_ofInstr i)]
  cases i <;> simp [SourceCommand.ofInstr]

/-- A source command in range is written with the operands of some command. -/
theorem exists_ofInstr_eq {c : SourceCommand} (h : c.wellFormed = true) : ∃ i, SourceCommand.ofInstr i = c := by
  cases c with
  | init freq =>
    exact ⟨.init (BitVec.ofNat 32 freq), congrArg SourceCommand.init (Nat.mod_eq_of_lt (of_decide_eq_true h))⟩
  | assign ch pin =>
    obtain ⟨hch, hpin⟩ := Bool.and_eq_true_iff.1 h
    obtain ⟨k, rfl⟩ := exists_num_of_channelInRange hch
    exact ⟨.assign k (BitVec.ofNat 8 pin),
      congrArg (SourceCommand.assign _) (Nat.mod_eq_of_lt (of_decide_eq_true hpin))⟩
  | setDuty ch v =>
    obtain ⟨hch, hv⟩ := Bool.and_eq_true_iff.1 h
    obtain ⟨k, rfl⟩ := exists_num_of_channelInRange hch
    exact ⟨.setDuty k (BitVec.ofNat 16 v),
      congrArg (SourceCommand.setDuty _) (Nat.mod_eq_of_lt (of_decide_eq_true hv))⟩
  | enable ch => obtain ⟨k, rfl⟩ := exists_num_of_channelInRange h; exact ⟨.enable k, rfl⟩
  | disable ch => obtain ⟨k, rfl⟩ := exists_num_of_channelInRange h; exact ⟨.disable k, rfl⟩
  | getDuty ch => obtain ⟨k, rfl⟩ := exists_num_of_channelInRange h; exact ⟨.getDuty k, rfl⟩
  | getMaxDuty ch => obtain ⟨k, rfl⟩ := exists_num_of_channelInRange h; exact ⟨.getMaxDuty k, rfl⟩

theorem wellFormed_of_toInstr? {c : SourceCommand} {i : Instr} (h : c.toInstr? = some i) : c.wellFormed = true := by
  by_contra hc
  unfold SourceCommand.toInstr? at h
  rw [if_neg hc] at h
  cases h

/-- Settles O7: the source commands in range are those written from commands, and reading one back gives its command. -/
theorem sourceOperandsInRangeAreKept : Obligations.SourceOperandsInRangeAreKept := by
  intro c
  refine ⟨⟨fun h => ?_, fun ⟨i, h⟩ => wellFormed_of_toInstr? h⟩, fun i h => ?_⟩
  · obtain ⟨i, rfl⟩ := exists_ofInstr_eq h
    exact ⟨i, toInstr?_ofInstr i⟩
  · obtain ⟨j, rfl⟩ := exists_ofInstr_eq (wellFormed_of_toInstr? h)
    rw [toInstr?_ofInstr, Option.some.injEq] at h
    rw [h]

end Sys2Proof

namespace Sys2Proof.Machine

/-! ### A command word at the port -/

theorem step_of_command {s : State} {cw : CommandWord} {rest : List Input} (hin : s.inputs = .command cw :: rest) :
    step s = issue cw { s with inputs := rest } := by
  simp only [step, stepOnce, hin, accept]

theorem issue_of_error {cw : CommandWord} {why : Illegal} (h : decode cw = .error why) (s : State) :
    issue cw s = .next (illegalCommand s) := by
  simp only [issue, h]

/-- Settles O5: R94's list is the form of no row, opcode by opcode; and an illegal word is a refusal after the `HALT`
test (R243, R244). -/
theorem illegalWordsAreTheListedOnesAndAreRefused : Obligations.IllegalWordsAreTheListedOnesAndAreRefused := by
  refine ⟨decode_error_iff_listed, fun s cw rest why hin hdec => ?_⟩
  rw [step_of_command hin, issue_of_error hdec, illegalCommand_eq_refuse]
  constructor <;> intro hhalt <;> simp only [hhalt] <;> rfl

/-- Whatever the word, it is answered (R96, R240). -/
theorem issue_answered (cw : CommandWord) (s : State) : ∃ t, issue cw s = .next t ∧ AnsweredOnce s t := by
  cases hdec : decode cw with
  | ok i => exact ⟨_, by simp only [issue, hdec, exec_eq_perform], perform_answered i s⟩
  | error why =>
    refine ⟨_, issue_of_error hdec s, ?_⟩
    rw [illegalCommand_eq_refuse]
    exact refuse_answered _ s

/-- Settles O11: the word is answered once, and R22's index counts the responses. -/
theorem everyCommandWordIsAnsweredOnce : Obligations.EveryCommandWordIsAnsweredOnce := by
  intro s cw rest hin
  obtain ⟨t, ht, w, hw, -⟩ := issue_answered cw { s with inputs := rest }
  exact ⟨t, w, (step_of_command hin).trans ht, hw, congrArg List.length hw⟩

end Sys2Proof.Machine
end

section
/-! PROOFS. INIT (spec/40_init.md): the prescaler and the reload it computes (R124 to R126, R130, R131), the run of its
micro-steps (R120 to R128), its admission (R132), and that no later step changes what it set up (R133, R294). -/

namespace Sys2Proof.Machine

/-! ### The synthesis -/

/-- A number that fits is its 16-bit value (R10). -/
theorem toU16_toNat_self (v : Half) : toU16 v.toNat = some v := by
  have hfits : (0 : Int) ≤ v.toNat ∧ (v.toNat : Int) ≤ 65535 := by omega
  simp [toU16, hfits]

theorem toU16_eq_none {n : Int} (h : n < 0 ∨ 65535 < n) : toU16 n = none :=
  if_neg (by omega)

/-- Prescaler and reload of a number of ticks (R125, R126), for which both fit 16 bits (R131). -/
structure SynthesisOf (ticks : Nat) (psc arr : Half) : Prop where
  representable : ticks % 65536 ≠ 0
  psc_eq : psc.toNat = (ticks - 1) / 65536
  arr_eq : arr.toNat = ticks / (psc.toNat + 1)

/-- With the prescaler of R125 the reload is at most 65536, and 65536 only when it comes out even (R131). -/
theorem reload_fits_iff {ticks : Nat} (h : 0 < ticks) :
    ticks / ((ticks - 1) / 65536 + 1) < 65536 ↔ ticks % 65536 ≠ 0 := by
  rw [Nat.div_lt_iff_lt_mul (Nat.succ_pos _)]
  omega

theorem initTicks_lt (clk freq : Hz) : initTicks clk freq < 2 ^ 32 :=
  (Nat.div_le_self _ _).trans_lt clk.isLt

/-- The synthesis, every case: the formulas of R125 and R126, or one of them does not fit (R131). -/
theorem synthesise_cases (clk : Hz) {freq : Hz} (hfreq : freq ≠ 0#32) :
    (synthesise clk freq = .error .unrepresentable ∧ initTicks clk freq % 65536 = 0) ∨
    ∃ psc arr, synthesise clk freq = .ok (psc, arr) ∧ SynthesisOf (initTicks clk freq) psc arr := by
  have hlt := initTicks_lt clk freq
  unfold synthesise
  rw [if_neg hfreq]
  generalize initTicks clk freq = ticks at hlt ⊢
  rcases Nat.eq_zero_or_pos ticks with rfl | hpos
  · exact .inl ⟨rfl, rfl⟩
  · obtain ⟨psc, hpsc⟩ : ∃ psc : Half, psc.toNat = (ticks - 1) / 65536 :=
      ⟨BitVec.ofNat 16 ((ticks - 1) / 65536), Nat.mod_eq_of_lt (by omega)⟩
    have hceil : (ceilDiv ticks 65536 : Int) - 1 = psc.toNat := by simp [ceilDiv, hpos.ne', hpsc]
    have hfits := reload_fits_iff hpos
    rw [← hpsc] at hfits
    simp only [hceil, toU16_toNat_self]
    by_cases heven : ticks % 65536 = 0
    · have hreload : 65536 ≤ ticks / (psc.toNat + 1) := not_lt.1 fun h => hfits.1 h heven
      rw [toU16_eq_none (.inr (by exact_mod_cast hreload))]
      exact .inl ⟨rfl, heven⟩
    · obtain ⟨arr, harr⟩ : ∃ arr : Half, arr.toNat = ticks / (psc.toNat + 1) :=
        ⟨BitVec.ofNat 16 (ticks / (psc.toNat + 1)), Nat.mod_eq_of_lt (hfits.2 heven)⟩
      rw [← harr, toU16_toNat_self]
      exact .inr ⟨psc, arr, rfl, heven, hpsc, harr⟩

theorem synthesise_zero (clk : Hz) : synthesise clk 0#32 = .error .zeroFrequency := if_pos rfl

theorem synthesise_ok_freq {clk freq : Hz} {psc arr : Half} (h : synthesise clk freq = .ok (psc, arr)) :
    freq ≠ 0#32 := by
  rintro rfl
  cases (synthesise_zero clk).symm.trans h

theorem synthesise_ok {clk freq : Hz} {psc arr : Half} (h : synthesise clk freq = .ok (psc, arr)) :
    SynthesisOf (initTicks clk freq) psc arr := by
  rcases synthesise_cases clk (synthesise_ok_freq h) with ⟨herr, -⟩ | ⟨psc', arr', hok, hsyn⟩
  · cases herr.symm.trans h
  · cases hok.symm.trans h
    exact hsyn

theorem exists_synthesise_ok_iff (clk : Hz) {freq : Hz} (hfreq : freq ≠ 0#32) :
    (∃ psc arr : Half, synthesise clk freq = .ok (psc, arr)) ↔ initTicks clk freq % 65536 ≠ 0 := by
  rcases synthesise_cases clk hfreq with ⟨herr, heven⟩ | ⟨psc, arr, hok, hsyn⟩
  · simp [herr, heven]
  · exact iff_of_true ⟨psc, arr, hok⟩ hsyn.representable

theorem synthesise_unrepresentable_iff (clk : Hz) {freq : Hz} (hfreq : freq ≠ 0#32) :
    synthesise clk freq = .error .unrepresentable ↔ initTicks clk freq % 65536 = 0 := by
  rcases synthesise_cases clk hfreq with ⟨herr, heven⟩ | ⟨psc, arr, hok, hsyn⟩
  · exact iff_of_true herr heven
  · simp [hok, hsyn.representable]

section
variable {ticks : Nat} {psc arr : Half}

/-- A smaller prescaler needs a reload of more than 16 bits (R131). -/
theorem SynthesisOf.psc_minimal (h : SynthesisOf ticks psc arr) {p : Nat} (hp : p < psc.toNat) :
    65535 < ticks / (p + 1) := by
  have hpsc := h.psc_eq
  rw [← Nat.succ_le_iff, Nat.le_div_iff_mul_le (Nat.succ_pos p)]
  omega

theorem SynthesisOf.psc_eq_zero_iff (h : SynthesisOf ticks psc arr) : psc = 0#16 ↔ ticks ≤ 65535 := by
  have hpsc := h.psc_eq
  have hmod := h.representable
  rw [← BitVec.toNat_inj, BitVec.toNat_zero]
  omega

/-- A period is longer than the requested one, by at most one count of the prescaler (R130). -/
theorem SynthesisOf.period_bounds (h : SynthesisOf ticks psc arr) :
    ticks + 1 ≤ (psc.toNat + 1) * (arr.toNat + 1) ∧
    (psc.toNat + 1) * (arr.toNat + 1) ≤ ticks + psc.toNat + 1 := by
  have hle : (psc.toNat + 1) * (ticks / (psc.toNat + 1)) ≤ ticks := Nat.mul_div_le ticks (psc.toNat + 1)
  rw [h.arr_eq]
  refine ⟨Nat.lt_mul_div_succ ticks (Nat.succ_pos _), ?_⟩
  rw [Nat.mul_succ]
  omega

end

/-- Settles O18: success and failure by the cases of the synthesis, the rest from the formulas of R125 and R126. -/
theorem synthesisSucceedsExactlyWhen : Obligations.SynthesisSucceedsExactlyWhen := by
  intro clk freq hfreq
  refine ⟨exists_synthesise_ok_iff clk hfreq, ?_, fun psc arr h => ?_⟩
  · refine (synthesise_unrepresentable_iff clk hfreq).trans ⟨.inr, ?_⟩
    rintro (hzero | heven)
    · rw [initTicks, hzero]
    · exact heven
  · have hsyn := synthesise_ok h
    exact ⟨synthesise_ok_arr h, hsyn.arr_eq, fun _ => hsyn.psc_minimal, hsyn.psc_eq_zero_iff⟩

/-- Settles O19: a period has at least `ticks + 1` clock cycles, and `clk < freq * (ticks + 1)`. -/
theorem outputFrequencyIsStrictlyLower : Obligations.OutputFrequencyIsStrictlyLower := by
  intro clk freq psc arr h
  obtain ⟨hlow, hhigh⟩ := (synthesise_ok h).period_bounds
  have hfreq : 0 < freq.toNat := Nat.pos_of_ne_zero (BitVec.toNat_ne_iff_ne.2 (synthesise_ok_freq h))
  refine ⟨hlow, hhigh, ?_⟩
  calc clk.toNat < freq.toNat * (initTicks clk freq + 1) := Nat.lt_mul_div_succ clk.toNat hfreq
    _ ≤ freq.toNat * ((psc.toNat + 1) * (arr.toNat + 1)) := Nat.mul_le_mul_left _ hlow

/-! ### The run of INIT -/

theorem planInit_admitted (freq : Hz) {s : State} (hhalt : s.halt = false) (hinit : s.initialized = false) :
    planOf (.init freq) s = .ok (.clkEnable :: .peripheralReset :: initFinish (synthesise s.cfg.clkHz freq)) := by
  simp [planOf, planInit, hhalt, hinit]

/-- The reset pulse wipes out what TICKs have done (R121). -/
theorem peripheralReset_tick (s : State) : peripheralReset (tick s) = peripheralReset s := by
  rcases tick_cases s with ⟨-, ht⟩ | ⟨-, -, ht⟩ | ⟨-, -, -, ht⟩ | ⟨-, -, -, ht⟩ <;> rw [ht] <;> rfl

theorem peripheralReset_tickN (n : Nat) (s : State) : peripheralReset (tickN n s) = peripheralReset s := by
  induction n generalizing s with
  | zero => rfl
  | succ n ih => rw [tickN_succ, ih, peripheralReset_tick]

theorem peripheralReset_dueTicks (s : State) :
    peripheralReset (dueTicks s) = { peripheralReset s with schedule := s.schedule.tail } := by
  rw [dueTicks_eq, peripheralReset_tickN]; rfl

/-- The block after step 1 of INIT (R121). -/
def clockedAndReset (s : State) : State :=
  { peripheralReset s with
    clken := true, schedule := s.schedule.drop 2, outputs := .periphResetPulse :: .clkEnable :: s.outputs }

/-- Step 1 of INIT takes two entries of the schedule, whose TICKs leave no trace (R121). -/
theorem runMicro_clockedAndReset (ops : List MicroOp) (w : Word) (s : State) :
    runMicro (.clkEnable :: .peripheralReset :: ops) w s = runMicro ops w (clockedAndReset s) := by
  have hclk : peripheralReset (emit .clkEnable { dueTicks s with clken := true }) =
      emit .clkEnable { peripheralReset (dueTicks s) with clken := true } := rfl
  simp only [runMicro, MicroOp.run, peripheralReset_dueTicks, hclk]
  simp [clockedAndReset, emit, ← List.drop_one]

/-- While the counter is stopped a micro-step only takes its entry of the schedule (R210). -/
theorem runMicro_cons_of_disabled {s : State} (h : tickEnabled s = false) (op : MicroOp) (ops : List MicroOp)
    (w : Word) : runMicro (op :: ops) w s =
      runMicro ops (op.run w { s with schedule := s.schedule.tail }).1
        (op.run w { s with schedule := s.schedule.tail }).2 := by
  have hdue : dueTicks s = { s with schedule := s.schedule.tail } := by
    rw [dueTicks_eq]; exact tickN_disabled _ h
  rw [runMicro, hdue]

/-- The block after an INIT that computed `psc` and `arr`, before any TICK (R127, R128). -/
def startedTimer (psc arr : Half) (s : State) : State :=
  { clockedAndReset s with
    psc := psc, arr := arr, cen := true, initialized := true, schedule := s.schedule.drop 7,
    outputs := .response 0x00000#20 :: .periphResetPulse :: .clkEnable :: s.outputs }

/-- Step 6 and completion: three writes with the counter stopped, then two micro-steps with it running (R127, R128). -/
theorem runMicro_initFinish_ok (psc arr : Half) (w : Word) (s : State) :
    runMicro (initFinish (.ok (psc, arr))) w (clockedAndReset s) =
      tickN ((s.schedule.drop 5).take 2).sum (startedTimer psc arr s) := by
  have hneutral : ∀ op ∈ [MicroOp.setInitialized, .reply], op.neutral = true := by simp [MicroOp.neutral]
  unfold initFinish
  rw [runMicro_cons_of_disabled rfl, runMicro_cons_of_disabled rfl, runMicro_cons_of_disabled rfl,
    runMicro_neutral hneutral]
  simp [scheduledTicks, runUntimed, MicroOp.run, writeReg, startedTimer, clockedAndReset, respond, emit, responseWord,
    Status.code]

section
variable {freq : Hz} {s : State}

theorem exec_of_planOf_ok {i : Instr} {ops : List MicroOp} (h : planOf i s = .ok ops) :
    exec i s = .next (runMicro ops 0#32 s) := by
  rw [exec_eq_perform, h, perform]

/-- A refusal, in the words of the statements (R243). -/
theorem exec_of_planOf_error {i : Instr} {st : Status} (h : planOf i s = .error st) :
    exec i s = .next (refusedWith st.code s) := by
  rw [exec_eq_perform, h]; rfl

/-- An admitted INIT whose synthesis fails: step 1, then the fault (R242). -/
theorem exec_init_of_error {st : Status} (hhalt : s.halt = false) (hinit : s.initialized = false)
    (hsyn : synthesise s.cfg.clkHz freq = .error st) : exec (.init freq) s =
      .next (constructionFault st { clockedAndReset s with schedule := s.schedule.drop 3 }) := by
  rw [exec_of_planOf_ok (planInit_admitted freq hhalt hinit), runMicro_clockedAndReset, hsyn, initFinish,
    runMicro_cons_of_disabled rfl]
  simp [runMicro, MicroOp.run, clockedAndReset]

/-- An admitted INIT whose synthesis succeeds: the timer is started, and TICKs fall before the last two micro-steps
(R127, R128). -/
theorem exec_init_of_ok {psc arr : Half} (hhalt : s.halt = false) (hinit : s.initialized = false)
    (hsyn : synthesise s.cfg.clkHz freq = .ok (psc, arr)) : exec (.init freq) s =
      .next (tickN ((s.schedule.drop 5).take 2).sum (startedTimer psc arr s)) := by
  rw [exec_of_planOf_ok (planInit_admitted freq hhalt hinit), runMicro_clockedAndReset, hsyn, runMicro_initFinish_ok]

end

/-- Settles O16: the synthesis succeeds with the values of R125 and R126, and the micro-steps run as above. -/
theorem initSetsUpAndStartsTheTimer : Obligations.InitSetsUpAndStartsTheTimer := by
  intro freq s hhalt hinit hfreq hticks
  obtain ⟨psc, arr, hok⟩ := (exists_synthesise_ok_iff s.cfg.clkHz hfreq).2 hticks
  have hsyn := synthesise_ok hok
  refine ⟨psc, arr, hsyn.psc_eq, hsyn.arr_eq, ?_, exec_init_of_ok hhalt hinit hok⟩
  rw [planInit_admitted freq hhalt hinit, hok]
  rfl

/-- Settles O17: a synthesis that fails halts the block, one that succeeds leaves it initialised, and a second
INIT finds either. -/
theorem initIsAdmittedOnce : Obligations.InitIsAdmittedOnce := by
  intro freq s
  refine ⟨fun hhalt hinit => ?_, fun hhalt => ?_, fun hhalt hinit => ?_⟩
  · cases hsyn : synthesise s.cfg.clkHz freq with
    | error st => exact ⟨_, exec_init_of_error hhalt hinit hsyn, .inl rfl⟩
    | ok r =>
      refine ⟨_, exec_init_of_ok (psc := r.1) (arr := r.2) hhalt hinit hsyn, .inr ⟨?_, ?_⟩⟩
      · rw [tickN_halt]; exact hhalt
      · rw [tickN_initialized]; rfl
  · exact exec_of_planOf_error (st := .halted) (by simp [planOf, planInit, hhalt])
  · exact exec_of_planOf_error (st := .alreadyInitialized) (by simp [planOf, planInit, hhalt, hinit])

/-! ### The frequency after INIT -/

/-- What the length of a period depends on: prescaler, reload, the counter's enable and its clock (R130, R210). -/
def periodFields (s : State) : Half × Half × Bool × Bool := (s.psc, s.arr, s.cen, s.clken)

@[simp] theorem periodFields_tick (s : State) : periodFields (tick s) = periodFields s := by simp [periodFields]

/-- The registers that hold these fields. -/
def Reg.holdsPeriod : Reg → Bool
  | .psc | .arr | .cr1 => true
  | _ => false

/-- The micro-steps that leave these fields as they are. -/
def MicroOp.keepsPeriod : MicroOp → Bool
  | .modify r _ _ | .store r _ => !r.holdsPeriod
  | .clkEnable | .peripheralReset => false
  | _ => true

theorem periodFields_writeReg {r : Reg} (h : r.holdsPeriod = false) (v : Word) (s : State) :
    periodFields (writeReg r v s) = periodFields s := by
  cases r <;> first | rfl | cases h

theorem MicroOp.periodFields_run {op : MicroOp} (h : op.keepsPeriod = true) (w : Word) (s : State) :
    periodFields (op.run w s).2 = periodFields s := by
  cases op with
  | modify r clear set => exact periodFields_writeReg (by simpa [keepsPeriod] using h) _ s
  | store r v => exact periodFields_writeReg (by simpa [keepsPeriod] using h) v s
  | clkEnable => cases h
  | peripheralReset => cases h
  | _ => rfl

/-- What TICKs and every micro-step keep, the run of the micro-steps keeps. -/
theorem runMicro_periodFields {ops : List MicroOp} (h : ∀ op ∈ ops, op.keepsPeriod = true) (w : Word) (s : State) :
    periodFields (runMicro ops w s) = periodFields s := by
  have hall := microInstants_all (P := fun u => periodFields u = periodFields s)
    (fun u hu => (periodFields_tick u).trans hu) (fun _ _ hu => hu) ops
    (fun op hop w u hu => (MicroOp.periodFields_run (h op hop) w u).trans hu) w s rfl
  exact hall _ (List.mem_of_getLast? (microInstants_last ops w s))

/-- In an initialised block INIT is refused, and no other plan stores to these fields (R132, R164). -/
theorem OkPlan.keepsPeriod {s : State} {i : Instr} {ops : List MicroOp} (h : OkPlan s i ops)
    (hinit : s.initialized = true) : ∀ op ∈ ops, op.keepsPeriod = true := by
  have hmode : ∀ ch, (modeReg ch).holdsPeriod = false := fun ch => by cases ch <;> rfl
  have hccer : Reg.ccer.holdsPeriod = false := rfl
  cases h with
  | initFault _ hno => cases hinit.symm.trans hno
  | initDone _ hno => cases hinit.symm.trans hno
  | enable _ => simp [enableOps, MicroOp.keepsPeriod, hmode, hccer]
  | _ =>
    simp [disableOps, getDutyOps, dutyReg, setDutyOps, getMaxDutyOps, MicroOp.keepsPeriod, Reg.holdsPeriod]

theorem periodFields_command {s : State} (i : Instr) (hinit : s.initialized = true) :
    periodFields (perform (planOf i s) s) = periodFields s := by
  cases hp : planOf i s with
  | error st => rfl
  | ok ops => exact runMicro_periodFields ((planOf_ok hp).keepsPeriod hinit) 0#32 s

/-- Settles O30: the case of every input, hardware reset excluded; of the commands only INIT stores to these fields. -/
theorem frequencyIsFixedAfterInit : Obligations.FrequencyIsFixedAfterInit := by
  intro s t hinit hreset hstep
  suffices h : periodFields t = periodFields s by simpa [periodFields] using h
  rcases step_cases hstep with ⟨-, rfl⟩ | ⟨rest, ⟨-, rfl⟩ | ⟨hin, -⟩ | ⟨b, -, rfl⟩ | ⟨cw, i, -, -, rfl⟩ |
    ⟨cw, why, -, -, rfl⟩⟩
  · exact periodFields_tick s
  · exact periodFields_tick { s with inputs := rest }
  · exact absurd hin (hreset rest)
  · rfl
  · exact periodFields_command i hinit
  · rw [illegalCommand_eq_refuse]; rfl

end Sys2Proof.Machine
end

section
/-! PROOFS. The channel commands (spec/41_channel_protocol.md): the exact state an admitted one leaves (R152 to R158), the
refusal of one that is not admitted (R150), several in a row for one channel (R159, R160), and what they keep: the other
channels (R162), the lifecycle and the period (R164). -/

namespace Sys2Proof.Machine

/-! ### A channel command, inverted -/

section
variable {i : Instr} {ch : Channel} {s t : State}

theorem planOf_eq_channelPlan (hi : channelCommand i = some ch) (s : State) :
    planOf i s = channelPlan ch s (channelOps i) := by
  cases i <;> cases hi <;> rfl

/-- R150's tests, in their order, decide the refusal of every channel command. -/
theorem channelCommand_refusedByAdmission (hi : channelCommand i = some ch) (s : State) :
    refusedByAdmission i ch s := by
  have refused : ∀ {st}, admission ch s = some st → exec i s = .next (refusedWith st.code s) := fun h =>
    exec_of_planOf_error (by rw [planOf_eq_channelPlan hi, channelPlan, h])
  refine ⟨fun hhalt => ?_, fun hhalt hinit => ?_, fun hhalt hinit hfree => ?_⟩
  · exact refused (st := .halted) (by simp [admission, hhalt])
  · exact refused (st := .notInitialized) (by simp [admission, hhalt, hinit])
  · exact refused (st := .notAssigned) (by simp [admission, hhalt, hinit, hfree])

/-- A channel command is refused, or is admitted and has its effect (R150). -/
theorem channelCommand_cases (hi : channelCommand i = some ch) (h : exec i s = .next t) :
    (∃ st, t = refuse st s) ∨
    (channelAdmitted ch s ∧ t = runMicro (channelOps i) 0#32 s ∧
      withoutCounter t = withoutCounter (channelEffect i ch s)) := by
  obtain rfl := exec_eq_next_iff.1 h
  cases hadm : admission ch s with
  | some st => exact .inl ⟨st, by rw [planOf_eq_channelPlan hi, channelPlan, hadm]; rfl⟩
  | none =>
    rw [admission_eq_none_iff] at hadm
    exact .inr ⟨hadm, by rw [planOf_channelCommand hi hadm]; rfl, channelCommand_effect hi hadm⟩

end

/-! ENABLE, DISABLE and SET_DUTY answer with data 0 (R152, R154, R156). -/

theorem channelAnswer_enable (ch : Channel) (s : State) : channelAnswer (.enable ch) s = 0x00000#20 :=
  show responseWord .ok 0#16 = _ from rfl

theorem channelAnswer_disable (ch : Channel) (s : State) : channelAnswer (.disable ch) s = 0x00000#20 :=
  show responseWord .ok 0#16 = _ from rfl

theorem channelAnswer_setDuty (ch : Channel) (d : Half) (s : State) : channelAnswer (.setDuty ch d) s = 0x00000#20 :=
  show responseWord .ok 0#16 = _ from rfl

/-! ### The commands without a duty write, to the TICK -/

/-- What `withoutCounter` blots out. -/
def counterFields (s : State) : Half × Half × ByChannel Half × List Nat := (s.cnt, s.psccnt, s.ccra, s.schedule)

/-- The picture without the counter and what it leaves out are the whole state. -/
theorem eq_of_withoutCounter {s u : State} (h : withoutCounter s = withoutCounter u)
    (hc : counterFields s = counterFields u) : s = u := by
  have whole : ∀ v : State, v = { withoutCounter v with
      cnt := (counterFields v).1, psccnt := (counterFields v).2.1, ccra := (counterFields v).2.2.1,
      schedule := (counterFields v).2.2.2 } := fun _ => rfl
  rw [whole s, whole u, h, hc]

theorem counterFields_writeReg {r : Reg} (h : (r == .ccmr1 || r == .ccmr2 || r == .ccer) = true) (v : Word)
    (s : State) : counterFields (writeReg r v s) = counterFields s := by
  cases r with
  | ccmr1 | ccmr2 | ccer => rfl
  | _ => simp at h

theorem MicroOp.counterFields_run {op : MicroOp} (h : op.neutral = true) (w : Word) (s : State) :
    counterFields (op.run w s).2 = counterFields s := by
  cases op with
  | modify r clear set => exact counterFields_writeReg h _ s
  | store r v => exact counterFields_writeReg h v s
  | clkEnable => cases h
  | peripheralReset => cases h
  | _ => rfl

theorem runUntimed_counterFields {ops : List MicroOp} (h : ∀ op ∈ ops, op.neutral = true) (w : Word) (s : State) :
    counterFields (runUntimed ops w s) = counterFields s := by
  induction ops generalizing w s with
  | nil => rfl
  | cons op ops ih =>
    obtain ⟨hop, hops⟩ := List.forall_mem_cons.1 h
    rw [runUntimed, ih hops, MicroOp.counterFields_run hop]

/-- Every channel command but SET_DUTY touches nothing the counter reads or writes. -/
theorem channelOps_neutral {i : Instr} (h : (fieldWrites i).ccr = none) : ∀ op ∈ channelOps i, op.neutral = true := by
  cases i with
  | setDuty ch d => cases h
  | enable ch => cases ch <;> decide
  | disable ch => cases ch <;> decide
  | getDuty ch => cases ch <;> decide
  | getMaxDuty _ => simp [channelOps, getMaxDutyOps, MicroOp.neutral]
  | init freq => exact fun _ => nofun
  | assign ch pin => exact fun _ => nofun

/-- An admitted channel command but SET_DUTY: its effect, and the TICKs its micro-steps were due (R71). -/
theorem exec_channelCommand {i : Instr} {ch : Channel} {s : State} (hi : channelCommand i = some ch)
    (hccr : (fieldWrites i).ccr = none) (hadm : channelAdmitted ch s) :
    exec i s = .next (tickN (scheduledTicks (channelOps i).length s)
      (channelEffect i ch { s with schedule := s.schedule.drop (channelOps i).length })) := by
  have hneutral := channelOps_neutral hccr
  rw [exec_of_planOf_ok (planOf_channelCommand hi hadm), runMicro_neutral hneutral]
  congr 2
  refine eq_of_withoutCounter (runUntimed_channelOps hi _ _) ?_
  rw [runUntimed_counterFields hneutral]
  rfl

/-- Settles O20: the field writes of R152, and the refusals of R150. -/
theorem enableSetsPreloadModeAndEnable : Obligations.EnableSetsPreloadModeAndEnable := by
  intro ch s
  refine ⟨opField_layout .., fun hadm => ⟨planOf_channelCommand rfl hadm, ?_⟩,
    channelCommand_refusedByAdmission rfl s⟩
  rw [exec_channelCommand (i := .enable ch) rfl rfl hadm, channelEffect, channelAnswer_enable]
  rfl

/-- Settles O21: the field write of R154, and the refusals of R150. -/
theorem disableClearsTheEnableBit : Obligations.DisableClearsTheEnableBit := by
  intro ch s
  refine ⟨opField_layout .., fun hadm => ⟨planOf_channelCommand rfl hadm, ?_⟩,
    channelCommand_refusedByAdmission rfl s⟩
  rw [exec_channelCommand (i := .disable ch) rfl rfl hadm, channelEffect, channelAnswer_disable]
  rfl

/-- Settles O22: no field write, `CCR` of the channel in the answer, and the refusals of R150. -/
theorem getDutyAnswersThePreloadValue : Obligations.GetDutyAnswersThePreloadValue := by
  intro ch s
  refine ⟨opField_layout .., fun hadm => ⟨planOf_channelCommand rfl hadm, ?_⟩,
    channelCommand_refusedByAdmission rfl s⟩
  exact exec_channelCommand (i := .getDuty ch) rfl rfl hadm

/-- Settles O24: no field write, `ARR` in the answer, and the refusals of R150. -/
theorem getMaxDutyAnswersTheReload : Obligations.GetMaxDutyAnswersTheReload := by
  intro ch s
  refine ⟨opField_layout .., fun hadm => ⟨planOf_channelCommand rfl hadm, ?_⟩,
    channelCommand_refusedByAdmission rfl s⟩
  exact exec_channelCommand (i := .getMaxDuty ch) rfl rfl hadm

/-! ### SET_DUTY, to the TICK -/

theorem scheduledTicks_succ (k : Nat) (s : State) :
    scheduledTicks (k + 1) s = s.schedule.headD 0 + scheduledTicks k { s with schedule := s.schedule.tail } := by
  unfold scheduledTicks
  cases s.schedule <;> simp

/-- An admitted SET_DUTY writes between the TICKs of two entries of the schedule; its answer may be given before both
(R71, R156). -/
theorem exec_setDuty {ch : Channel} {s : State} (d : Half) (hadm : channelAdmitted ch s) :
    exec (.setDuty ch d) s = .next (tickN ((s.schedule.drop 1).take 1).sum (writeDuty ch d (tickN (scheduledTicks 1 s)
      { s with schedule := s.schedule.drop 2, outputs := .response 0x00000#20 :: s.outputs }))) := by
  have hreply : ∀ op ∈ [MicroOp.reply], op.neutral = true := by decide
  have hsched : (writeDuty ch d (dueTicks s)).schedule = s.schedule.drop 1 := by simp [writeDuty]
  have answerFirst : ∀ n u, respond .ok 0#16 { tickN n u with schedule := s.schedule.drop 2 } =
      tickN n (respond .ok 0#16 { u with schedule := s.schedule.drop 2 }) :=
    tickN_comm (fun u => respond .ok 0#16 { u with schedule := s.schedule.drop 2 }) (fun _ _ _ _ => rfl)
      fun _ => by simp
  rw [exec_of_planOf_ok (planOf_channelCommand (i := .setDuty ch d) rfl hadm)]
  congr 1
  calc runMicro (setDutyOps ch d) 0#32 s
      = runMicro [.reply] 0#32 (writeDuty ch d (dueTicks s)) := by rw [← run_store_duty ch d 0#32]; rfl
    _ = tickN ((s.schedule.drop 1).take 1).sum
          (writeDuty ch d (respond .ok 0#16 { dueTicks s with schedule := s.schedule.drop 2 })) := by
        rw [runMicro_neutral hreply, scheduledTicks, hsched, List.length_singleton, List.drop_drop]; rfl
    _ = _ := by
        rw [dueTicks_eq, answerFirst, scheduledTicks_succ]; rfl

/-- Settles O23: the write of R156 between the TICKs, and the refusals of R150. -/
theorem setDutyStoresTheValue : Obligations.SetDutyStoresTheValue := by
  intro ch d s
  refine ⟨opField_layout .., ?_, fun hadm => ⟨_, rfl, exec_setDuty d hadm⟩, channelCommand_refusedByAdmission rfl s⟩
  rw [encode, immField_layout]
  exact setWidth_half d

/-! ### Commands for one channel in a row -/

/-- A channel command run in a state that is `e` outside the counter leaves its effect on `e` there (R71). -/
theorem channelCommand_agrees {i : Instr} {ch : Channel} {s e : State} (hi : channelCommand i = some ch)
    (h : withoutCounter s = withoutCounter e) (hadm : channelAdmitted ch e) :
    ∃ t, exec i s = .next t ∧ withoutCounter t = withoutCounter (channelEffect i ch e) := by
  have hs : channelAdmitted ch s := (IgnoresCounter.congr (f := channelAdmitted ch) (fun _ => rfl) h).mpr hadm
  exact ⟨_, exec_eq_perform i s, (channelCommand_effect hi hs).trans ((ignoresCounter_channelEffect i ch).congr h)⟩

/-- Settles O25: the answer of the second command is `CCR` as the first has written it. -/
theorem setDutyThenGetDutyReturnsIt : Obligations.SetDutyThenGetDutyReturnsIt := by
  intro ch d n s hadm
  obtain ⟨t, ht, hst⟩ := channelCommand_agrees (i := .setDuty ch d) rfl rfl hadm
  obtain ⟨u, hu, htu⟩ := channelCommand_agrees (i := .getDuty ch) rfl
    ((withoutCounter_tickN n t).trans hst) hadm
  refine ⟨t, u, ht, hu, ?_⟩
  calc responses u
      = (0x0#4 ++ (s.ccr.set ch d).get ch) :: channelAnswer (.setDuty ch d) s :: responses s :=
        IgnoresCounter.congr (f := responses) (fun _ => rfl) htu
    _ = (0x0#4 ++ d) :: 0x00000#20 :: responses s := by rw [ByChannel.get_set_same, channelAnswer_setDuty]

theorem modeFields_congr {s u : State} (h : withoutCounter s = withoutCounter u) : modeFields s = modeFields u :=
  IgnoresCounter.congr (f := modeFields) (fun _ => rfl) h

/-- ENABLE and DISABLE write constants to the same fields: of two such writes the second one stays (R152, R154). -/
theorem modeFields_rewritten (ch : Channel) (s : State) :
    let e := channelEffect (.enable ch) ch s
    let ed := channelEffect (.disable ch) ch e
    modeFields (channelEffect (.enable ch) ch e) = modeFields e ∧
    modeFields (channelEffect (.disable ch) ch ed) = modeFields ed ∧
    modeFields (channelEffect (.enable ch) ch ed) = modeFields e := by
  simp [modeFields, channelEffect, FieldWrites.apply, fieldWrites, ByChannel.put]

/-- Settles O26: outside the counter the five commands are their effects, whose writes to these fields overwrite each
other. -/
theorem enableAndDisableConverge : Obligations.EnableAndDisableConverge := by
  intro ch s hadm
  obtain ⟨e, he, heE⟩ := channelCommand_agrees (i := .enable ch) rfl rfl hadm
  obtain ⟨ee, hee, heeE⟩ := channelCommand_agrees (i := .enable ch) rfl heE hadm
  obtain ⟨ed, hed, hedE⟩ := channelCommand_agrees (i := .disable ch) rfl heE hadm
  obtain ⟨edd, hedd, heddE⟩ := channelCommand_agrees (i := .disable ch) rfl hedE hadm
  obtain ⟨ede, hede, hedeE⟩ := channelCommand_agrees (i := .enable ch) rfl hedE hadm
  obtain ⟨hEE, hDD, hDE⟩ := modeFields_rewritten ch s
  refine ⟨e, ee, ed, edd, ede, he, hee, hed, hedd, hede, ?_, ?_, ?_, ?_⟩
  · rw [← modeFields_eq_iff, modeFields_congr heeE, hEE, modeFields_congr heE]
  · rw [← modeFields_eq_iff, modeFields_congr heddE, hDD, modeFields_congr hedE]
  · rw [← modeFields_eq_iff, modeFields_congr hedeE, hDE, modeFields_congr heE]
  · have hcce := congrArg (fun u => u.cce.get ch) hedeE
    exact hcce.trans (ByChannel.get_set_same _ ch true)

/-! ### The other channels -/

/-- The fields of one channel that only commands write (R25, R26, R28, R30). -/
def channelFields (c : Channel) (s : State) : Bool × OcMode × Bool × Half × ChState :=
  (s.ocpe.get c, s.ocm.get c, s.cce.get c, s.ccr.get c, s.chstate.get c)

/-- A channel's active value is what it was in `s`, or its duty of then; the duty is as it was (R213). -/
def ActiveFrom (c : Channel) (s u : State) : Prop :=
  u.ccr.get c = s.ccr.get c ∧ (u.ccra.get c = s.ccra.get c ∨ u.ccra.get c = s.ccr.get c)

theorem ActiveFrom.tick {c : Channel} {s u : State} (h : ActiveFrom c s u) : ActiveFrom c s (tick u) := by
  obtain ⟨hccr, hccra⟩ := h
  refine ⟨by simpa using hccr, ?_⟩
  rcases tick_cases u with ⟨-, ht⟩ | ⟨-, -, ht⟩ | ⟨-, -, -, ht⟩ | ⟨-, -, -, ht⟩ <;> rw [ht]
  · exact hccra
  · exact hccra
  · exact hccra
  · exact .inr hccr

theorem writeReg_dutyValues_other {r : Reg} {c : Channel} (h : Reg.ccr c ≠ r) (v : Word) (s : State) :
    (writeReg r v s).ccr.get c = s.ccr.get c ∧ (writeReg r v s).ccra.get c = s.ccra.get c := by
  cases r with
  | ccr ch =>
    have hch : c ≠ ch := fun e => h (e ▸ rfl)
    simp only [writeReg, writeDuty]
    refine ⟨ByChannel.get_set_other _ _ hch, ?_⟩
    split
    · rfl
    · exact ByChannel.get_set_other _ _ hch
  | _ => exact ⟨rfl, rfl⟩

/-- A micro-step that does not store to a channel's compare register leaves both its values (R28, R66). -/
theorem MicroOp.dutyValues_run {op : MicroOp} {c : Channel} (h : Reg.ccr c ∉ storesOf op) (w : Word) (s : State) :
    (op.run w s).2.ccr.get c = s.ccr.get c ∧ (op.run w s).2.ccra.get c = s.ccra.get c := by
  cases op with
  | modify r clear set => exact writeReg_dutyValues_other (by simpa [storesOf] using h) _ s
  | store r v => exact writeReg_dutyValues_other (by simpa [storesOf] using h) v s
  | peripheralReset => exact absurd (mem_storesOf_peripheralReset _) h
  | _ => exact ⟨rfl, rfl⟩

theorem runMicro_activeFrom {ops : List MicroOp} {c : Channel} (h : ∀ op ∈ ops, Reg.ccr c ∉ storesOf op) (w : Word)
    (s : State) : ActiveFrom c s (runMicro ops w s) := by
  have hall := microInstants_all (P := ActiveFrom c s) (fun _ => ActiveFrom.tick) (fun _ _ hu => hu) ops
    (fun op hop w u hu => by
      obtain ⟨hccr, hccra⟩ := MicroOp.dutyValues_run (h op hop) w u
      rwa [ActiveFrom, hccr, hccra]) w s ⟨rfl, .inl rfl⟩
  exact hall _ (List.mem_of_getLast? (microInstants_last ops w s))

/-- Of the plans of a command with a channel only SET_DUTY's stores to a compare register, its channel's own. -/
theorem OkPlan.stores_no_other_duty {s : State} {i : Instr} {ops : List MicroOp} {ch c : Channel} (h : OkPlan s i ops)
    (hi : commandChannel i = some ch) (hc : c ≠ ch) : ∀ op ∈ ops, Reg.ccr c ∉ storesOf op := by
  have hmode : ∀ ch, Reg.ccr c ≠ modeReg ch := fun ch => by cases ch <;> nofun
  cases h with
  | initFault _ _ _ => cases hi
  | initDone _ _ _ => cases hi
  | setDuty _ => cases hi; simp [setDutyOps, dutyReg, storesOf, hc]
  | enable _ => simp [enableOps, storesOf, hmode]
  | _ => simp [disableOps, getDutyOps, getMaxDutyOps, storesOf]

theorem channelFields_channelEffect (i : Instr) {ch c : Channel} (hc : c ≠ ch) (s : State) :
    channelFields c (channelEffect i ch s) = channelFields c s := by
  simp [channelFields, channelEffect, FieldWrites.apply, ByChannel.get_put_other _ hc]

/-- ASSIGN writes the channel state of its channel only (R194). -/
theorem OkPlan.channelFields_assign {s : State} {ops : List MicroOp} {ch c : Channel} {pin : PinId}
    (h : OkPlan s (.assign ch pin) ops) (hc : c ≠ ch) : channelFields c (runMicro ops 0#32 s) = channelFields c s := by
  have hrun := runMicro_agrees_runUntimed h.loads_no_cnt 0#32 (rfl : withoutCounter s = withoutCounter s)
  rw [IgnoresCounter.congr (f := channelFields c) (fun _ => rfl) hrun]
  cases h with
  | assign _ _ _ _ _ => simp [runUntimed, MicroOp.run, channelFields, ByChannel.get_set_other _ _ hc]

/-- The commands with a channel are ASSIGN and the five channel commands (R91). -/
theorem commandChannel_cases {i : Instr} {ch : Channel} (h : commandChannel i = some ch) :
    (∃ pin, i = .assign ch pin) ∨ channelCommand i = some ch := by
  cases i with
  | init freq => cases h
  | assign c pin => cases h; exact .inl ⟨pin, rfl⟩
  | _ => exact .inr h

theorem channelFields_command {i : Instr} {ch c : Channel} (hi : commandChannel i = some ch) (hc : c ≠ ch)
    (s : State) : channelFields c (perform (planOf i s) s) = channelFields c s := by
  rcases commandChannel_cases hi with ⟨pin, rfl⟩ | hi
  · cases hp : planOf (.assign ch pin) s with
    | error st => rfl
    | ok ops => exact (planOf_ok hp).channelFields_assign hc
  · rcases channelCommand_cases hi (exec_eq_perform i s) with ⟨st, ht⟩ | ⟨-, -, ht⟩
    · rw [ht]; rfl
    · rw [IgnoresCounter.congr (f := channelFields c) (fun _ => rfl) ht, channelFields_channelEffect i hc]

/-- Settles O27: a refusal changes none of these fields, and no plan of the command writes to another channel. -/
theorem commandsKeepTheOtherChannels : Obligations.CommandsKeepTheOtherChannels := by
  intro i ch c s t hi hc h
  obtain rfl := exec_eq_next_iff.1 h
  have hfields := channelFields_command hi hc s
  simp only [channelFields, Prod.mk.injEq] at hfields
  obtain ⟨hocpe, hocm, hcce, hccr, hchstate⟩ := hfields
  refine ⟨hocpe, hocm, hcce, hccr, hchstate, ?_⟩
  cases hp : planOf i s with
  | error st => exact .inl rfl
  | ok ops => exact (runMicro_activeFrom ((planOf_ok hp).stores_no_other_duty hi hc) 0#32 s).2

/-! ### The lifecycle and the period -/

/-- What a channel command never writes: the lifecycle, the clock, the counter's enable, prescaler and reload, and the
pin record (R164). -/
def lifecycleFields (s : State) : ByChannel ChState × Bool × Bool × Bool × Half × Half × List (PinId × AfSel) × Bool :=
  (s.chstate, s.initialized, s.clken, s.cen, s.psc, s.arr, s.pinmux, s.halt)

/-- The position in the period and what it moves by (R210 to R212). -/
def countFields (s : State) : (Half × Half × Bool × Bool) × Half × Half := (periodFields s, s.cnt, s.psccnt)

/-- A TICK moves the position by these fields alone. -/
theorem countFields_tick_congr {s u : State} (h : countFields s = countFields u) :
    countFields (tick s) = countFields (tick u) := by
  simp only [countFields, periodFields, Prod.mk.injEq] at h
  obtain ⟨⟨hpsc, harr, hcen, hclken⟩, hcnt, hpsccnt⟩ := h
  have hen : tickEnabled s = tickEnabled u := by simp [tickEnabled, hcen, hclken]
  simp only [countFields, periodFields, tick_psc, tick_arr, tick_cen, tick_clken, hpsc, harr, hcen, hclken]
  unfold tick counterTick
  rw [hen, hpsc, hpsccnt]
  simp only [harr, hcnt]
  split
  · split
    · split <;> rfl
    · rfl
  · simp only [hcnt, hpsccnt]

theorem countFields_tickN_congr (n : Nat) {s u : State} (h : countFields s = countFields u) :
    countFields (tickN n s) = countFields (tickN n u) := by
  induction n generalizing s u with
  | zero => exact h
  | succ n ih => exact ih (countFields_tick_congr h)

theorem writeReg_cnt_other {r : Reg} (h : Reg.cnt ≠ r) (v : Word) (s : State) :
    (writeReg r v s).cnt = s.cnt ∧ (writeReg r v s).psccnt = s.psccnt := by
  cases r with
  | cnt => exact absurd rfl h
  | _ => exact ⟨rfl, rfl⟩

theorem MicroOp.cnt_run {op : MicroOp} (h : Reg.cnt ∉ storesOf op) (w : Word) (s : State) :
    (op.run w s).2.cnt = s.cnt ∧ (op.run w s).2.psccnt = s.psccnt := by
  cases op with
  | modify r clear set => exact writeReg_cnt_other (by simpa [storesOf] using h) _ s
  | store r v => exact writeReg_cnt_other (by simpa [storesOf] using h) v s
  | peripheralReset => exact absurd (mem_storesOf_peripheralReset _) h
  | _ => exact ⟨rfl, rfl⟩

/-- A micro-step that stores to no register of the period and not to `CNT` leaves the position as it is. -/
theorem MicroOp.countFields_run {op : MicroOp} (hperiod : op.keepsPeriod = true) (hcnt : Reg.cnt ∉ storesOf op)
    (w : Word) (s : State) : countFields (op.run w s).2 = countFields s := by
  obtain ⟨hcount, hprescaled⟩ := MicroOp.cnt_run hcnt w s
  rw [countFields, MicroOp.periodFields_run hperiod, hcount, hprescaled, countFields]

/-- Such micro-steps move the position by the TICKs of the schedule only (R71, R164). -/
theorem runMicro_countFields {ops : List MicroOp} (h : ∀ op ∈ ops, op.keepsPeriod = true ∧ Reg.cnt ∉ storesOf op)
    (w : Word) (s : State) :
    countFields (runMicro ops w s) = countFields (tickN (scheduledTicks ops.length s) s) := by
  induction ops generalizing w s with
  | nil => simp [runMicro, scheduledTicks]
  | cons op ops ih =>
    obtain ⟨⟨hperiod, hcnt⟩, hops⟩ := List.forall_mem_cons.1 h
    obtain ⟨-, hsched, -⟩ := op.run_ports w (dueTicks s)
    have hticks : scheduledTicks ops.length (op.run w (dueTicks s)).2 =
        scheduledTicks ops.length { s with schedule := s.schedule.tail } := by
      rw [scheduledTicks, hsched, dueTicks_schedule]; rfl
    have hstart : countFields (op.run w (dueTicks s)).2 = countFields (tickN (s.schedule.headD 0) s) := by
      rw [MicroOp.countFields_run hperiod hcnt, dueTicks_eq]
      exact countFields_tickN_congr _ rfl
    rw [runMicro, ih hops, hticks, countFields_tickN_congr _ hstart, ← tickN_add, ← scheduledTicks_succ,
      List.length_cons]

theorem channelOps_store_no_cnt (i : Instr) : ∀ op ∈ channelOps i, Reg.cnt ∉ storesOf op := by
  have hmode : ∀ ch, Reg.cnt ≠ modeReg ch := fun ch => by cases ch <;> nofun
  cases i <;> simp [channelOps, enableOps, disableOps, getDutyOps, setDutyOps, dutyReg, getMaxDutyOps, storesOf, hmode]

theorem length_channelOps_le (i : Instr) : (channelOps i).length ≤ 7 := by
  cases i <;> simp [channelOps, enableOps, disableOps, getDutyOps, setDutyOps, getMaxDutyOps]

/-- Settles O29: a refusal keeps all of it; of an admitted command, the effect does, and the micro-steps leave the
counter to the TICKs. -/
theorem channelCommandsKeepLifecycleAndPeriod : Obligations.ChannelCommandsKeepLifecycleAndPeriod := by
  intro i ch s t hi h
  rcases channelCommand_cases hi h with ⟨st, rfl⟩ | ⟨hadm, hrun, heff⟩
  · exact ⟨rfl, rfl, rfl, rfl, rfl, rfl, rfl, rfl, ⟨_, rfl⟩, 0, Nat.zero_le 7, rfl, rfl⟩
  · obtain ⟨-, hinit, -⟩ := id hadm
    have hkeep := (planOf_ok (planOf_channelCommand hi hadm)).keepsPeriod hinit
    have hcount := runMicro_countFields (fun op hop => ⟨hkeep op hop, channelOps_store_no_cnt i op hop⟩) 0#32 s
    have hlife : lifecycleFields t = lifecycleFields (channelEffect i ch s) :=
      IgnoresCounter.congr (fun _ => rfl) heff
    have hout : t.outputs = .response (channelAnswer i s) :: s.outputs :=
      IgnoresCounter.congr (f := State.outputs) (fun _ => rfl) heff
    simp only [lifecycleFields, Prod.mk.injEq] at hlife
    obtain ⟨hchstate, hinit', hclken, hcen, hpsc, harr, hpinmux, hhalt⟩ := hlife
    simp only [← hrun, countFields, Prod.mk.injEq] at hcount
    obtain ⟨-, hcnt, hpsccnt⟩ := hcount
    exact ⟨hchstate, hinit', hclken, hcen, hpsc, harr, hpinmux, hhalt, ⟨_, hout⟩, _, length_channelOps_le i, hcnt,
      hpsccnt⟩

end Sys2Proof.Machine
end

section
/-! PROOFS. ASSIGN (spec/42_assign.md): what it does and when it is refused (R190, R194), and that it commutes with
commands for other channels (R196). For the latter every command with a channel is reduced to its result: an answer, at
most one pin routed to its channel, and writes to the fields of its channel. -/

namespace Sys2Proof.Machine

/-! ### ASSIGN by itself -/

/-- An ASSIGN that passes all tests (R190). -/
theorem planOf_assign {ch : Channel} {pin : PinId} {sel : AfSel} {s : State} (hhalt : s.halt = false)
    (hinit : s.initialized = true) (hfree : s.chstate.get ch = .unassigned)
    (hbind : bindLookup s.cfg pin ch = some sel) (hpin : owned s pin = false) :
    planOf (.assign ch pin) s = .ok [.afSelect pin sel, .setAssigned ch pin, .reply] := by
  simp [planOf, planAssign, planAssignAmong, hhalt, hinit, hfree, hbind, hpin]

/-- Settles O33: the three micro-steps touch nothing the counter does, so their TICKs can be made afterwards (R71). -/
theorem assignRoutesThePinAndBindsTheChannel : Obligations.AssignRoutesThePinAndBindsTheChannel := by
  intro ch pin sel s hhalt hinit hfree hbind hnone
  have hplan := planOf_assign hhalt hinit hfree hbind (owned_eq_false_iff.2 hnone)
  rw [exec_of_planOf_ok hplan, runMicro_neutral (by simp [MicroOp.neutral])]
  rfl

/-- Settles O34: each clause's hypotheses are the tests of R190 up to the one that fails. -/
theorem assignRefusalsInOrder : Obligations.AssignRefusalsInOrder := by
  intro ch pin s
  have refused : ∀ {st}, planAssign ch pin s = .error st →
      exec (.assign ch pin) s = .next (refusedWith st.code s) := fun h => exec_of_planOf_error h
  unfold planAssign planAssignAmong at refused
  refine ⟨fun hhalt => ?_, fun hhalt hinit => ?_, fun p hhalt hinit hheld => ?_, fun hhalt hinit hfree hbind => ?_,
    fun c sel hhalt hinit hfree hbind hc => ?_⟩
  · exact refused (st := .halted) (by simp [hhalt])
  · exact refused (st := .notInitialized) (by simp [hhalt, hinit])
  · exact refused (st := .alreadyAssigned) (by simp [hhalt, hinit, hheld])
  · exact refused (st := .invalidBinding) (by simp [hhalt, hinit, hfree, hbind])
  · exact refused (st := .pinInUse) (by simp [hhalt, hinit, hfree, hbind, owned_of_assigned hc])

/-! ### The result of a command with a channel -/

/-- What a command for one channel does outside the counter. -/
structure CommandResult where
  answer : ResponseWord
  /-- The pin and the selector of an ASSIGN that is admitted. -/
  route : Option (PinId × AfSel) := none
  writes : FieldWrites := {}

/-- `PINMUX[pin] <- sel`, if there is a route to set (R32). -/
def pinmuxPut (l : List (PinId × AfSel)) : Option (PinId × AfSel) → List (PinId × AfSel)
  | none => l
  | some (pin, sel) => pinmuxSet l pin sel

/-- The outputs of a command, newest first (R96, R194). -/
def CommandResult.emitted (r : CommandResult) : List Output :=
  .response r.answer :: (r.route.map fun x => Output.afSelect x.1 x.2).toList

/-- The result applied to the state: `FCODE` takes the answer's status if it was 0 (R23), and a routed pin becomes the
channel's (R194). -/
def CommandResult.apply (r : CommandResult) (ch : Channel) (s : State) : State :=
  { r.writes.apply ch s with
    pinmux := pinmuxPut s.pinmux r.route
    chstate := s.chstate.put ch (r.route.map fun x => .assigned x.1)
    fcode := if s.fcode = 0#4 then r.answer.extractLsb' 16 4 else s.fcode
    outputs := r.emitted ++ s.outputs }

/-- The route an admitted command sets: ASSIGN's, with the selector of `BIND` (R190). -/
def routeOf : Instr → State → Option (PinId × AfSel)
  | .assign ch pin, s => (bindLookup s.cfg pin ch).map (pin, ·)
  | _, _ => none

/-- The result of an admitted command with a channel. -/
def admittedResult (i : Instr) (s : State) : CommandResult where
  answer := channelAnswer i s
  route := routeOf i s
  writes := fieldWrites i

/-- The result of a command with a channel: the status of its refusal alone (R243), or all of the above. -/
def resultOf (i : Instr) (s : State) : CommandResult :=
  match planOf i s with
  | .error st => { answer := responseWord st 0#16 }
  | .ok _ => admittedResult i s

theorem resultOf_of_error {i : Instr} {s : State} {st : Status} (h : planOf i s = .error st) :
    resultOf i s = { answer := responseWord st 0#16 } := by
  simp only [resultOf, h]

theorem resultOf_of_ok {i : Instr} {s : State} {ops : List MicroOp} (h : planOf i s = .ok ops) :
    resultOf i s = admittedResult i s := by
  simp only [resultOf, h]

theorem refuse_eq_apply (st : Status) (ch : Channel) (s : State) :
    refuse st s = CommandResult.apply { answer := responseWord st 0#16 } ch s := by
  simp only [CommandResult.apply, responseWord_status]
  rfl

theorem channelAnswer_status (i : Instr) (s : State) : (channelAnswer i s).extractLsb' 16 4 = 0x0#4 :=
  responseWord_status .ok _

/-- A completed command keeps `FCODE` (R23). -/
theorem fcode_of_channelAnswer (i : Instr) (s : State) :
    (if s.fcode = 0#4 then (channelAnswer i s).extractLsb' 16 4 else s.fcode) = s.fcode := by
  rw [channelAnswer_status]
  split
  · next h => exact h.symm
  · rfl

/-- Only ASSIGN has a route to set (R164). -/
theorem routeOf_channelCommand {i : Instr} {ch : Channel} (hi : channelCommand i = some ch) (s : State) :
    routeOf i s = none := by
  cases i with
  | assign c pin => cases hi
  | _ => rfl

theorem channelEffect_eq_apply {i : Instr} {ch : Channel} (hi : channelCommand i = some ch) (s : State) :
    channelEffect i ch s = (admittedResult i s).apply ch s := by
  simp only [CommandResult.apply, admittedResult, fcode_of_channelAnswer, routeOf_channelCommand hi]
  rfl

/-- Outside the counter the micro-steps of ASSIGN come to its result (R190, R194). -/
theorem OkPlan.assign_result {ch : Channel} {pin : PinId} {s : State} {ops : List MicroOp}
    (h : OkPlan s (.assign ch pin) ops) :
    withoutCounter (runMicro ops 0#32 s) = withoutCounter ((admittedResult (.assign ch pin) s).apply ch s) := by
  rw [runMicro_agrees_runUntimed h.loads_no_cnt 0#32 rfl]
  cases h with
  | assign _ _ _ hbind _ =>
    simp only [CommandResult.apply, admittedResult, fcode_of_channelAnswer, routeOf, hbind]
    rfl

/-- Outside the counter a command with a channel does what its result says. -/
theorem command_result {i : Instr} {ch : Channel} (hi : commandChannel i = some ch) (s : State) :
    withoutCounter (perform (planOf i s) s) = withoutCounter ((resultOf i s).apply ch s) := by
  cases hp : planOf i s with
  | error st => rw [resultOf_of_error hp, ← refuse_eq_apply, perform]
  | ok ops =>
    rw [resultOf_of_ok hp]
    rcases commandChannel_cases hi with ⟨pin, rfl⟩ | hi
    · exact (planOf_ok hp).assign_result
    · obtain ⟨hadm, -⟩ := channelPlan_ok ((planOf_eq_channelPlan hi s).symm.trans hp)
      rw [← hp, channelCommand_effect hi hadm, channelEffect_eq_apply hi]

/-- Only an admitted ASSIGN sets a route: of its own pin, to a channel that was free (R190). -/
theorem resultOf_route {i : Instr} {c : Channel} {s : State} {x : PinId × AfSel} (hi : commandChannel i = some c)
    (h : (resultOf i s).route = some x) : i = .assign c x.1 ∧ s.chstate.get c = .unassigned := by
  cases hp : planOf i s with
  | error st => rw [resultOf_of_error hp] at h; cases h
  | ok ops =>
    rw [resultOf_of_ok hp] at h
    have hok := planOf_ok hp
    cases i with
    | assign ch pin =>
      cases hi
      obtain ⟨sel, -, rfl⟩ := Option.map_eq_some_iff.1 h
      cases hok with
      | assign _ _ hfree _ _ => exact ⟨rfl, hfree⟩
    | _ => cases h

/-! ### Two commands for different channels -/

/-- What a command for channel `d` reads, the owned pins of ASSIGN aside (R150, R155, R158, R190). -/
def readFields (d : Channel) (s : State) : Bool × Bool × Params × ChState × Half × Half :=
  (s.halt, s.initialized, s.cfg, s.chstate.get d, s.ccr.get d, s.arr)

theorem owned_congr {s u : State} {pin : PinId}
    (h : ∀ ch, s.chstate.get ch = .assigned pin ↔ u.chstate.get ch = .assigned pin) : owned s pin = owned u pin := by
  simp only [owned, owns, beq_eq_decide, h]

/-- A command's tests and answer read its channel's fields, the lifecycle, the configuration and `ARR`; ASSIGN's also
read whether its pin is owned. -/
theorem resultOf_congr {j : Instr} {d : Channel} {s u : State} (hj : commandChannel j = some d)
    (h : readFields d s = readFields d u) (hpin : ∀ pin, j = .assign d pin → owned s pin = owned u pin) :
    resultOf j s = resultOf j u := by
  simp only [readFields, Prod.mk.injEq] at h
  obtain ⟨hhalt, hinit, hcfg, hch, hccr, harr⟩ := h
  rcases commandChannel_cases hj with ⟨pin, rfl⟩ | hj
  · have hplan : planOf (.assign d pin) s = planOf (.assign d pin) u := by
      simp only [planOf, planAssign, planAssignAmong, hhalt, hinit, hcfg, hch, hpin pin rfl]
    simp only [resultOf, hplan, admittedResult, routeOf, hcfg]
    rfl
  · have hadm : admission d s = admission d u := by simp only [admission, hhalt, hinit, hch]
    have hanswer : channelAnswer j s = channelAnswer j u := by
      cases j with
      | getDuty ch => cases hj; simp only [channelAnswer, hccr]
      | getMaxDuty ch => simp only [channelAnswer, harr]
      | _ => rfl
    simp only [resultOf, planOf_eq_channelPlan hj, channelPlan, hadm, admittedResult, hanswer,
      routeOf_channelCommand hj]

/-- The result of a command does not see a command for another channel before it, but for an ASSIGN of the pin it
names (R73, R196). -/
theorem resultOf_after {i j : Instr} {c d : Channel} (hi : commandChannel i = some c) (hj : commandChannel j = some d)
    (hcd : c ≠ d) (hpin : ∀ pin, i = .assign c pin → j ≠ .assign d pin) (s : State) :
    resultOf j ((resultOf i s).apply c s) = resultOf j s := by
  refine resultOf_congr hj ?_ fun pin hjp => owned_congr fun ch => ?_
  · simp only [readFields, CommandResult.apply, FieldWrites.apply, ByChannel.get_put_other _ hcd.symm]
  · simp only [CommandResult.apply]
    cases hr : (resultOf i s).route with
    | none => rfl
    | some x =>
      obtain ⟨hix, hfree⟩ := resultOf_route hi hr
      have hx : x.1 ≠ pin := fun e => hpin pin (e ▸ hix) hjp
      simp only [Option.map_some, ByChannel.put, ByChannel.get_set]
      split
      · next hch => simp [hch, hfree, hx]
      · rfl

/-- Two commands for different channels, one after the other: both results are those of the first state. -/
theorem two_commands {i j : Instr} {c d : Channel} (hi : commandChannel i = some c) (hj : commandChannel j = some d)
    (hcd : c ≠ d) (hpin : ∀ pin, i = .assign c pin → j ≠ .assign d pin) (s : State) :
    ∃ t u, exec i s = .next t ∧ exec j t = .next u ∧
      withoutCounter u = withoutCounter ((resultOf j s).apply d ((resultOf i s).apply c s)) := by
  refine ⟨_, _, exec_eq_perform i s, exec_eq_perform j _, ?_⟩
  rw [(ignoresCounter_command j).congr (command_result hi s), command_result hj, resultOf_after hi hj hcd hpin]

theorem pin_trichotomy (p q : PinId) : p < q ∨ p = q ∨ q < p :=
  (Nat.lt_trichotomy p.toNat q.toNat).imp_right (Or.imp_left BitVec.eq_of_toNat_eq)

/-! A write to the record, by where its pin stands to the first one (R32). -/

@[simp] theorem pinmuxSet_cons_same (l : List (PinId × AfSel)) (p : PinId) (a b : AfSel) :
    pinmuxSet ((p, a) :: l) p b = (p, b) :: l := if_pos rfl

theorem pinmuxSet_cons_of_lt (l : List (PinId × AfSel)) {p q : PinId} (a b : AfSel) (h : q < p) :
    pinmuxSet ((p, a) :: l) q b = (q, b) :: (p, a) :: l := by
  have hne : q ≠ p := fun e => BitVec.lt_irrefl p (e ▸ h)
  rw [pinmuxSet, if_neg hne, if_pos h]

theorem pinmuxSet_cons_of_gt (l : List (PinId × AfSel)) {p q : PinId} (a b : AfSel) (h : p < q) :
    pinmuxSet ((p, a) :: l) q b = (p, a) :: pinmuxSet l q b := by
  have hne : q ≠ p := fun e => BitVec.lt_irrefl p (e ▸ h)
  rw [pinmuxSet, if_neg hne, if_neg (BitVec.lt_asymm h)]

theorem pinmuxSet_comm_of_lt (l : List (PinId × AfSel)) {p q : PinId} (a b : AfSel) (h : p < q) :
    pinmuxSet (pinmuxSet l p a) q b = pinmuxSet (pinmuxSet l q b) p a := by
  induction l with
  | nil => simp only [pinmuxSet, pinmuxSet_cons_of_gt _ _ _ h, pinmuxSet_cons_of_lt _ _ _ h]
  | cons x rest ih =>
    obtain ⟨r, e⟩ := x
    rcases pin_trichotomy p r with hp | rfl | hp
    · rw [pinmuxSet_cons_of_lt _ _ _ hp, pinmuxSet_cons_of_gt _ _ _ h]
      rcases pin_trichotomy q r with hq | rfl | hq
      · rw [pinmuxSet_cons_of_lt _ _ _ hq, pinmuxSet_cons_of_lt _ _ _ h]
      · rw [pinmuxSet_cons_same, pinmuxSet_cons_of_lt _ _ _ h]
      · rw [pinmuxSet_cons_of_gt _ _ _ hq, pinmuxSet_cons_of_lt _ _ _ hp]
    · rw [pinmuxSet_cons_same, pinmuxSet_cons_of_gt _ _ _ h, pinmuxSet_cons_of_gt _ _ _ h, pinmuxSet_cons_same]
    · have hq : r < q := BitVec.lt_trans hp h
      rw [pinmuxSet_cons_of_gt _ _ _ hp, pinmuxSet_cons_of_gt _ _ _ hq, pinmuxSet_cons_of_gt _ _ _ hq,
        pinmuxSet_cons_of_gt _ _ _ hp, ih]

/-- Writes of two pins of the record commute, in any list. -/
theorem pinmuxSet_comm (l : List (PinId × AfSel)) {p q : PinId} (a b : AfSel) (h : p ≠ q) :
    pinmuxSet (pinmuxSet l p a) q b = pinmuxSet (pinmuxSet l q b) p a := by
  rcases pin_trichotomy p q with hlt | heq | hgt
  · exact pinmuxSet_comm_of_lt l a b hlt
  · exact absurd heq h
  · exact (pinmuxSet_comm_of_lt l b a hgt).symm

theorem pinmuxPut_comm (l : List (PinId × AfSel)) {x y : Option (PinId × AfSel)}
    (h : ∀ p a q b, x = some (p, a) → y = some (q, b) → p ≠ q) :
    pinmuxPut (pinmuxPut l x) y = pinmuxPut (pinmuxPut l y) x := by
  cases x with
  | none => rfl
  | some x =>
    cases y with
    | none => rfl
    | some y => exact pinmuxSet_comm l x.2 y.2 (h _ _ _ _ rfl rfl)

/-- Results for different channels and different pins commute, the outputs and `FCODE` aside. -/
theorem CommandResult.apply_comm {q r : CommandResult} {c d : Channel} (hcd : c ≠ d)
    (hpin : ∀ p a p' a', q.route = some (p, a) → r.route = some (p', a') → p ≠ p') (s : State) :
    { r.apply d (q.apply c s) with outputs := [], fcode := 0#4 } =
      { q.apply c (r.apply d s) with outputs := [], fcode := 0#4 } := by
  simp only [apply, FieldWrites.apply, ByChannel.put_comm _ hcd, pinmuxPut_comm _ hpin]
  cases q.writes.critical <;> cases r.writes.critical <;> rfl

theorem CommandResult.responses_apply (r : CommandResult) (ch : Channel) (s : State) :
    responses (r.apply ch s) = r.answer :: responses s := by
  simp only [apply, responses, emitted]
  cases r.route <;> rfl

/-- `FCODE` is the same in both orders unless both results are refusals from `FCODE = 0` (R23). -/
theorem CommandResult.fcode_apply_comm {q r : CommandResult} {c d : Channel} {s : State}
    (h : s.fcode ≠ 0#4 ∨ q.answer.extractLsb' 16 4 = 0x0#4 ∨ r.answer.extractLsb' 16 4 = 0x0#4) :
    (r.apply d (q.apply c s)).fcode = (q.apply c (r.apply d s)).fcode := by
  simp only [apply]
  by_cases hf : s.fcode = 0#4
  · rcases h with h | h | h
    · exact absurd hf h
    · simp +contextual [hf, h]
    · simp +contextual [hf, h]
  · simp [hf]

/-- Settles O51: the two results are the same in either order and write different fields; and after the first of two
ASSIGNs of one pin the pin is in use. -/
theorem assignCommutesWithOtherChannels : Obligations.AssignCommutesWithOtherChannels := by
  refine ⟨fun j c d pin s hj hcd hne => ?_, fun c d pin s hcd hhalt hinit hc hd hbc hbd hnone => ?_⟩
  · have hi : commandChannel (.assign c pin) = some c := rfl
    obtain ⟨t, u, hit, hju, hu⟩ := two_commands hi hj hcd (fun p hp => by cases hp; exact hne) s
    obtain ⟨t', u', hjt', hiu', hu'⟩ := two_commands hj hi hcd.symm (fun p hp hp' => by cases hp'; exact hne hp) s
    have hpins : ∀ p a p' a', (resultOf (.assign c pin) s).route = some (p, a) →
        (resultOf j s).route = some (p', a') → p ≠ p' := by
      rintro p a p' a' hp hp' rfl
      obtain ⟨hip, -⟩ := resultOf_route hi hp
      obtain ⟨hjp, -⟩ := resultOf_route hj hp'
      cases hip
      exact hne hjp
    have restOf : ∀ {a b : State}, withoutCounter a = withoutCounter b →
        withoutCounter { a with outputs := [], fcode := 0#4 } = withoutCounter { b with outputs := [], fcode := 0#4 } :=
      IgnoresCounter.congr (f := fun s => withoutCounter { s with outputs := [], fcode := 0#4 }) fun _ => rfl
    have fcodeOf : ∀ {a b : State}, withoutCounter a = withoutCounter b → a.fcode = b.fcode :=
      IgnoresCounter.congr fun _ => rfl
    have outputsOf : ∀ {a b : State}, withoutCounter a = withoutCounter b → a.outputs = b.outputs :=
      IgnoresCounter.congr fun _ => rfl
    have responsesOf : ∀ {a b : State}, withoutCounter a = withoutCounter b → responses a = responses b :=
      IgnoresCounter.congr fun _ => rfl
    refine ⟨t, u, t', u', (resultOf (.assign c pin) s).answer, (resultOf j s).answer, hit, hju, hjt', hiu', ?_,
      fun h => ?_, ?_, ?_, ?_⟩
    · rw [restOf hu, restOf hu', CommandResult.apply_comm hcd hpins]
    · rw [fcodeOf hu, fcodeOf hu', CommandResult.fcode_apply_comm h]
    · rw [responsesOf hu, CommandResult.responses_apply, CommandResult.responses_apply]
    · rw [responsesOf hu', CommandResult.responses_apply, CommandResult.responses_apply]
    · rw [outputsOf hu, outputsOf hu']
      exact List.perm_append_comm_assoc _ _ _
  · obtain ⟨sel, hsel⟩ := Option.isSome_iff_exists.1 hbc
    obtain ⟨sel', hsel'⟩ := Option.isSome_iff_exists.1 hbd
    refine ⟨_, assignRoutesThePinAndBindsTheChannel c pin sel s hhalt hinit hc hsel hnone, ?_, ?_⟩
    · simp
    · obtain ⟨-, -, -, -, hinUse⟩ := assignRefusalsInOrder d pin (tickN _ _)
      refine hinUse c sel' ?_ ?_ ?_ ?_ ?_
      · simpa using hhalt
      · simpa using hinit
      · simpa [ByChannel.get_set_other _ _ hcd.symm] using hd
      · simpa using hsel'
      · simp

end Sys2Proof.Machine
end

section
/-! PROOFS. The counter and the outputs (spec/43_counter_output.md): one TICK (R210 to R212), what TICKs leave alone
(R214), the position in the period after any number of them and the update event at its end (R213, R216), and the
outputs (R215). The count of R211 and R212 is reduced to one number, the phase, which every TICK moves by one. -/

namespace Sys2Proof.Machine

/-! ### One TICK -/

/-- Settles O9: the input is taken, or none waits. -/
theorem stepOnTicksMaskAndIdle : Obligations.StepOnTicksMaskAndIdle := by
  intro s rest b
  refine ⟨fun hin => ?_, fun hin => ?_, fun hin => ?_⟩ <;> simp only [step, stepOnce, hin, accept]

theorem tickEnabled_eq_true_iff {s : State} : tickEnabled s = true ↔ s.clken = true ∧ s.cen = true :=
  Bool.and_eq_true_iff

theorem tickEnabled_eq_false_iff {s : State} : tickEnabled s = false ↔ s.clken = false ∨ s.cen = false :=
  Bool.and_eq_false_iff

section
variable {s : State}

theorem tick_of_disabled (h : tickEnabled s = false) : tick s = s := tickN_disabled 1 h

/-- The prescaler counts (R211). -/
theorem tick_of_prescaling (h : tickEnabled s = true) (hpsc : s.psccnt < s.psc) :
    tick s = { s with psccnt := s.psccnt + 1#16 } := by
  simp only [tick, h, if_true, if_neg (BitVec.not_le.2 hpsc)]

/-- The prescaler is done and the counter counts (R212). -/
theorem tick_of_counting (h : tickEnabled s = true) (hpsc : s.psc ≤ s.psccnt) (hcnt : s.cnt < s.arr) :
    tick s = { s with psccnt := 0#16, cnt := s.cnt + 1#16 } := by
  simp only [tick, h, if_true, if_pos hpsc, counterTick, if_neg (BitVec.not_le.2 hcnt)]

/-- Both are done: the update event (R213). -/
theorem tick_of_wrapping (h : tickEnabled s = true) (hpsc : s.psc ≤ s.psccnt) (hcnt : s.arr ≤ s.cnt) :
    tick s = { s with psccnt := 0#16, cnt := 0#16, ccra := s.ccr } := by
  simp only [tick, h, if_true, if_pos hpsc, counterTick, if_pos hcnt, updateEvent]

end

/-- Settles O37: the four cases of a TICK. -/
theorem tickStepsPrescalerAndCounter : Obligations.TickStepsPrescalerAndCounter := by
  intro s
  refine ⟨fun hoff => ?_, fun hclk hcen hpsc => ?_, fun hclk hcen hpsc hcnt => ?_, fun hclk hcen hpsc hcnt => ?_⟩
  · exact tick_of_disabled (tickEnabled_eq_false_iff.2 hoff)
  · exact tick_of_prescaling (tickEnabled_eq_true_iff.2 ⟨hclk, hcen⟩) hpsc
  · exact tick_of_counting (tickEnabled_eq_true_iff.2 ⟨hclk, hcen⟩) hpsc hcnt
  · exact tick_of_wrapping (tickEnabled_eq_true_iff.2 ⟨hclk, hcen⟩) hpsc hcnt

/-! ### What TICKs leave alone -/

theorem ActiveFrom.tickN {c : Channel} {s u : State} (n : Nat) (h : ActiveFrom c s u) :
    ActiveFrom c s (tickN n u) := by
  induction n generalizing u with
  | zero => exact h
  | succ n ih => exact ih h.tick

/-- Settles O38: outside the counter nothing changes, and every TICK leaves an active value or loads it. -/
theorem ticksWriteOnlyTheCounter : Obligations.TicksWriteOnlyTheCounter := by
  intro n s
  refine ⟨eq_of_withoutCounter (withoutCounter_tickN n s) ?_, fun c => ?_⟩
  · simp only [counterFields, tickN_schedule]
  · exact (ActiveFrom.tickN n ⟨rfl, .inl rfl⟩ : ActiveFrom c s (tickN n s)).2

/-! ### The phase of a running counter -/

/-- How many TICKs one period takes (R216). -/
def periodLength (s : State) : Nat := (s.psc.toNat + 1) * (s.arr.toNat + 1)

/-- How many TICKs of the present period have happened (R211, R212). -/
def phase (s : State) : Nat := s.cnt.toNat * (s.psc.toNat + 1) + s.psccnt.toNat

/-- The counter runs, and is within its period (R210 to R212). -/
structure InPeriod (s : State) : Prop where
  enabled : tickEnabled s = true
  cnt_le : s.cnt ≤ s.arr
  psccnt_le : s.psccnt ≤ s.psc

@[simp] theorem periodLength_tick (s : State) : periodLength (tick s) = periodLength s := by simp [periodLength]

@[simp] theorem periodLength_tickN (n : Nat) (s : State) : periodLength (tickN n s) = periodLength s := by
  simp [periodLength]

theorem half_succ_toNat {x y : Half} (h : x < y) : (x + 1#16).toNat = x.toNat + 1 := by bv_omega

/-- `CNT` and `PSCCNT` are the digits of the phase. -/
theorem phase_digits {s : State} (h : s.psccnt ≤ s.psc) :
    phase s / (s.psc.toNat + 1) = s.cnt.toNat ∧ phase s % (s.psc.toNat + 1) = s.psccnt.toNat := by
  have hlt : s.psccnt.toNat < s.psc.toNat + 1 := Nat.lt_succ_of_le h
  rw [phase, Nat.add_comm, Nat.add_mul_div_right _ _ (Nat.succ_pos _), Nat.div_eq_of_lt hlt, Nat.zero_add,
    Nat.add_mul_mod_self_right, Nat.mod_eq_of_lt hlt]
  exact ⟨rfl, rfl⟩

namespace InPeriod

variable {s : State}

/-- What is left of the period, and what is done of it. -/
theorem ticksToUpdate_add_phase (h : InPeriod s) : ticksToUpdate s + phase s = periodLength s := by
  obtain ⟨a, harr⟩ := Nat.exists_eq_add_of_le h.cnt_le
  obtain ⟨b, hpsc⟩ := Nat.exists_eq_add_of_le h.psccnt_le
  simp only [ticksToUpdate, phase, periodLength, harr, hpsc, Nat.add_sub_cancel_left]
  ring

theorem phase_lt (h : InPeriod s) : phase s < periodLength s := by
  rw [← h.ticksToUpdate_add_phase, ticksToUpdate]; omega

theorem tick (h : InPeriod s) : InPeriod (tick s) := by
  have hen : tickEnabled (Machine.tick s) = true := by simpa [tickEnabled] using h.enabled
  suffices hle : (Machine.tick s).cnt ≤ (Machine.tick s).arr ∧ (Machine.tick s).psccnt ≤ (Machine.tick s).psc from
    ⟨hen, hle.1, hle.2⟩
  obtain ⟨-, hcnt, hpsccnt⟩ := h
  rcases tick_cases s with ⟨-, ht⟩ | ⟨-, hlt, ht⟩ | ⟨-, -, hlt, ht⟩ | ⟨-, -, -, ht⟩ <;> rw [ht]
  · exact ⟨hcnt, hpsccnt⟩
  · exact ⟨hcnt, by bv_omega⟩
  · exact ⟨by bv_omega, half_zero_le _⟩
  · exact ⟨half_zero_le _, half_zero_le _⟩

theorem tickN (h : InPeriod s) (n : Nat) : InPeriod (tickN n s) := by
  induction n generalizing s with
  | zero => exact h
  | succ n ih => exact ih h.tick

/-- A TICK moves the phase by one, or ends the period with the update event (R211 to R213). -/
theorem tick_cases (h : InPeriod s) :
    (phase (Machine.tick s) = phase s + 1 ∧ (Machine.tick s).ccra = s.ccra) ∨
    (phase s + 1 = periodLength s ∧ phase (Machine.tick s) = 0 ∧ (Machine.tick s).ccra = s.ccr) := by
  obtain ⟨hen, hcnt, hpsccnt⟩ := h
  rcases Machine.tick_cases s with ⟨hoff, -⟩ | ⟨-, hlt, ht⟩ | ⟨-, hpsc, hlt, ht⟩ | ⟨-, hpsc, harr, ht⟩
  · cases hoff.symm.trans hen
  · left
    simp only [ht, phase, half_succ_toNat hlt, Nat.add_assoc, and_self]
  · left
    have hend : s.psccnt.toNat = s.psc.toNat := Nat.le_antisymm hpsccnt hpsc
    refine ⟨?_, by rw [ht]⟩
    simp only [ht, phase, half_succ_toNat hlt, hend, BitVec.toNat_zero]
    ring
  · right
    have hend : s.psccnt.toNat = s.psc.toNat := Nat.le_antisymm hpsccnt hpsc
    have htop : s.cnt.toNat = s.arr.toNat := Nat.le_antisymm hcnt harr
    refine ⟨?_, by simp [ht, phase], by rw [ht]⟩
    simp only [phase, periodLength, hend, htop]
    ring

/-- `n` TICKs move the phase by `n`, round the period. -/
theorem phase_tickN (h : InPeriod s) (n : Nat) : phase (Machine.tickN n s) = (phase s + n) % periodLength s := by
  induction n generalizing s with
  | zero => exact (Nat.mod_eq_of_lt h.phase_lt).symm
  | succ n ih =>
    rw [tickN_succ, ih h.tick, periodLength_tick, Nat.add_comm n 1, ← Nat.add_assoc]
    rcases h.tick_cases with ⟨hphase, -⟩ | ⟨hend, hphase, -⟩
    · rw [hphase]
    · rw [hend, hphase, Nat.zero_add, Nat.add_mod_left]

/-- The active values wait for the update event that ends the period, and from then on are the duties (R213). -/
theorem ccra_tickN (h : InPeriod s) (n : Nat) :
    (Machine.tickN n s).ccra = if phase s + n < periodLength s then s.ccra else s.ccr := by
  induction n generalizing s with
  | zero => exact (if_pos h.phase_lt).symm
  | succ n ih =>
    rw [tickN_succ, ih h.tick, periodLength_tick, tick_ccr]
    rcases h.tick_cases with ⟨hphase, hccra⟩ | ⟨hend, -, hccra⟩
    · rw [hphase, hccra, Nat.add_assoc, Nat.add_comm 1 n]
    · rw [hccra, ite_self, if_neg (by omega)]

end InPeriod

/-! ### From the start of a period -/

/-- The counter runs and stands at the start of a period (R217). -/
theorem inPeriod_of_start {s : State} (hclk : s.clken = true) (hcen : s.cen = true) (hcnt : s.cnt = 0#16)
    (hpsccnt : s.psccnt = 0#16) : InPeriod s where
  enabled := tickEnabled_eq_true_iff.2 ⟨hclk, hcen⟩
  cnt_le := hcnt ▸ half_zero_le _
  psccnt_le := hpsccnt ▸ half_zero_le _

theorem phase_of_start {s : State} (hcnt : s.cnt = 0#16) (hpsccnt : s.psccnt = 0#16) : phase s = 0 := by
  simp [phase, hcnt, hpsccnt]

/-- Settles O39: after `n` TICKs the phase is `n` round the period, and its digits are `CNT` and `PSCCNT`. -/
theorem counterPositionAfterTicks : Obligations.CounterPositionAfterTicks := by
  intro n s hclk hcen hcnt hpsccnt
  have hin := inPeriod_of_start hclk hcen hcnt hpsccnt
  have hphase := hin.phase_tickN n
  have hccra := hin.ccra_tickN n
  obtain ⟨hdiv, hmod⟩ := phase_digits (hin.tickN n).psccnt_le
  rw [phase_of_start hcnt hpsccnt, Nat.zero_add, periodLength] at hphase hccra
  rw [hphase, tickN_psc] at hdiv hmod
  refine ⟨?_, ?_, hccra⟩
  · rw [← hmod, Nat.mod_mul_right_mod]
  · rw [← hdiv, Nat.mod_mul_right_div_self]

/-! ### The outputs -/

/-- An enabled channel in PWM mode 1 compares (R215). -/
theorem oc_of_pwm1 {ch : Channel} {s : State} (hcce : s.cce.get ch = true) (hocm : s.ocm.get ch = pwmMode1) :
    oc ch s = decide (s.cnt.toNat < (s.ccra.get ch).toNat) := by
  simp only [oc, hcce, hocm, Bool.true_eq_false, if_false, if_true, BitVec.lt_def]

/-- A disabled channel drives 0 (R215). -/
theorem oc_of_disabled {ch : Channel} {s : State} (hcce : s.cce.get ch = false) : oc ch s = false := if_pos hcce

/-- Settles O42: the two cases R215 specifies. -/
theorem outputFollowsTheComparison : Obligations.OutputFollowsTheComparison := by
  intro ch s
  refine ⟨fun hcce hocm => ?_, oc_of_disabled⟩
  rw [oc_of_pwm1 hcce hocm, decide_eq_true_iff]

/-- In the period from its start the counter has each value for `PSC + 1` TICKs, so the output is high until
`PSC + 1` TICKs for each unit of the active value are over (R216). -/
theorem InPeriod.oc_tickN_of_start {ch : Channel} {s : State} {n : Nat} (h : InPeriod s) (hstart : phase s = 0)
    (hcce : s.cce.get ch = true) (hocm : s.ocm.get ch = pwmMode1) (hn : n < periodLength s) :
    oc ch (Machine.tickN n s) = decide (n < (s.psc.toNat + 1) * (s.ccra.get ch).toNat) := by
  obtain ⟨hcount, -⟩ := phase_digits (h.tickN n).psccnt_le
  rw [h.phase_tickN, hstart, Nat.zero_add, Nat.mod_eq_of_lt hn, tickN_psc] at hcount
  have hccra : (Machine.tickN n s).ccra = s.ccra := by rw [h.ccra_tickN, hstart, Nat.zero_add, if_pos hn]
  rw [oc_of_pwm1 (by rwa [tickN_cce]) (by rwa [tickN_ocm]), hccra, ← hcount, decide_eq_decide, Nat.mul_comm]
  exact Nat.div_lt_iff_lt_mul (Nat.succ_pos _)

theorem countP_range_lt (b n : Nat) : (List.range n).countP (fun k => decide (k < b)) = min n b := by
  rw [List.countP_eq_length_filter, ← List.Ico.zero_bot, List.Ico.filter_lt, List.Ico.length, Nat.sub_zero]

/-- Settles O40: of the TICKs of the period those before `PSC + 1` times the active value are high. -/
theorem enabledOutputIsHighForItsDuty : Obligations.EnabledOutputIsHighForItsDuty := by
  intro ch s hclk hcen hcnt hpsccnt hcce hocm
  have hin := inPeriod_of_start hclk hcen hcnt hpsccnt
  have hstart := phase_of_start hcnt hpsccnt
  calc (List.range (periodLength s)).countP (fun n => oc ch (tickN n s))
      = (List.range (periodLength s)).countP fun n => decide (n < (s.psc.toNat + 1) * (s.ccra.get ch).toNat) :=
        List.countP_congr fun n hn => by
          rw [hin.oc_tickN_of_start hstart hcce hocm (List.mem_range.1 hn)]
    _ = (s.psc.toNat + 1) * min (s.ccra.get ch).toNat (s.arr.toNat + 1) := by
        rw [countP_range_lt, periodLength, Nat.mul_min_mul_left, Nat.min_comm]

/-! ### A duty written in mid-period -/

/-- With the preload bit set the write leaves the active value alone (R28, R156). -/
theorem writeDuty_of_preload {ch : Channel} {s : State} (h : s.ocpe.get ch = true) (d : Half) :
    writeDuty ch d s = { s with ccr := s.ccr.set ch d } := by
  simp only [writeDuty, h, if_true]

/-- A write with the preload bit set leaves the phase as it is: the TICKs after it load the duties when the period it
was made in ends (R213). -/
theorem InPeriod.ccra_tickN_writeDuty {ch : Channel} {u : State} (h : InPeriod u) (hocpe : u.ocpe.get ch = true)
    (d : Half) (n : Nat) :
    (Machine.tickN n (writeDuty ch d u)).ccra = if n < ticksToUpdate u then u.ccra else u.ccr.set ch d := by
  rw [writeDuty_of_preload hocpe]
  have hin : InPeriod { u with ccr := u.ccr.set ch d } := ⟨h.enabled, h.cnt_le, h.psccnt_le⟩
  have hleft := hin.ticksToUpdate_add_phase
  change ticksToUpdate u + _ = _ at hleft
  simp only [hin.ccra_tickN, ← hleft, Nat.add_comm (ticksToUpdate u), Nat.add_lt_add_iff_left]

/-- Settles O41: the TICKs before the store keep the counter within its period, and those after it are counted from
the store on. -/
theorem preloadedDutyLandsAtTheUpdateEvent : Obligations.PreloadedDutyLandsAtTheUpdateEvent := by
  intro ch d s hadm hocpe hclk hcen hcnt hpsccnt
  refine ⟨_, _, rfl, exec_setDuty d hadm, fun n => ?_⟩
  rw [← tickN_add, InPeriod.ccra_tickN_writeDuty, tickN_ccr]
  · exact ⟨fun hbefore => if_pos hbefore, fun hafter => if_neg (Nat.not_lt.2 hafter)⟩
  · apply InPeriod.tickN
    exact ⟨tickEnabled_eq_true_iff.2 ⟨hclk, hcen⟩, hcnt, hpsccnt⟩
  · rw [tickN_ocpe]; exact hocpe

/-! ### The pin of a high output -/

/-- A pin carries the one channel that is assigned to it (R194). -/
theorem pinDriver_of_assigned {ch : Channel} {s : State} {p : PinId} (h : InstantInv s)
    (hp : s.chstate.get ch = .assigned p) : pinDriver s p = some ch := by
  have howns : ∀ c, owns s p c = decide (c = ch) := fun c => by
    rw [owns, Bool.eq_iff_iff, beq_iff_eq, decide_eq_true_iff]
    exact ⟨fun hc => h.pinsDistinct c ch p hc hp, fun e => e ▸ hp⟩
  simp only [pinDriver, howns]
  cases ch <;> rfl

/-- Settles O43: a high output is enabled, so its channel is assigned, bound and routed. -/
theorem highOutputHasARoutedPin : Obligations.HighOutputHasARoutedPin := by
  intro ch s h hhigh
  have hcce : s.cce.get ch = true := by
    by_contra hoff
    rw [oc_of_disabled (Bool.eq_false_of_not_eq_true hoff)] at hhigh
    cases hhigh
  obtain ⟨p, hp⟩ := h.enabledAssigned ch hcce
  obtain ⟨-, hbound⟩ := h.assignedBound ch p hp
  obtain ⟨sel, hsel⟩ := Option.isSome_iff_exists.1 hbound
  exact ⟨p, sel, hp, pinDriver_of_assigned h.toInstantInv hp, hsel, (h.assignedRouted ch p hp).trans hsel⟩

end Sys2Proof.Machine
end

section
/-! PROOFS. Faults and refusals (spec/60_exceptions.md): the exact state a refusal leaves (R243), the construction
faults and the halted block (R242, R244), and the three outcomes of a command (R240), from which its precision (R248). -/

namespace Sys2Proof.Machine

/-! ### Refusals -/

/-- An illegal word is refused too, after the `HALT` test (R243, R244). -/
theorem issue_refused_of_error {cw : CommandWord} {why : Illegal} (h : decode cw = .error why) (s : State) :
    ∃ st : Status, (st = .halted ∨ st = .illegalCommand) ∧ issue cw s = .next (refusedWith st.code s) := by
  rw [issue_of_error h, illegalCommand_eq_refuse]
  refine ⟨_, ?_, rfl⟩
  split
  · exact .inl rfl
  · exact .inr rfl

/-- Settles O13: a plan that is a refusal and a word that is no command both end in refusal entry. -/
theorem refusalChangesOnlyTheCode : Obligations.RefusalChangesOnlyTheCode :=
  ⟨fun _ _ _ => exec_of_planOf_error, fun _ s _ h => issue_refused_of_error h s⟩

/-! ### Construction faults and the halted block -/

/-- `HALT` is the first test of every command (R244). -/
theorem exec_of_halted (i : Instr) {s : State} (h : s.halt = true) : exec i s = .next (refusedWith 0xA#4 s) := by
  cases i with
  | init freq => exact (initIsAdmittedOnce freq s).2.1 h
  | assign ch pin => exact (assignRefusalsInOrder ch pin s).1 h
  | enable | disable | getDuty | setDuty | getMaxDuty => exact (channelCommand_refusedByAdmission rfl s).1 h

/-- Once there is a code a refusal only responds (R23, R243). -/
theorem refusedWith_of_latched (code : StatusCode) {s : State} (h : s.fcode ≠ 0#4) :
    refusedWith code s = emit (.response (code ++ 0x0000#16)) s := by
  rw [refusedWith, if_neg h]; rfl

/-- Settles O14: either frequency fails its synthesis, and INIT ends in the fault after step 1; a halted block
refuses with a code already latched. -/
theorem constructionFaultHaltsTheBlock : Obligations.ConstructionFaultHaltsTheBlock := by
  refine ⟨fun freq s code hhalt hinit hcause => ?_, fun i s hhalt hcode => ?_⟩
  · rcases hcause with ⟨rfl, rfl⟩ | ⟨hfreq, heven, rfl⟩
    · exact exec_init_of_error hhalt hinit (synthesise_zero s.cfg.clkHz)
    · exact exec_init_of_error hhalt hinit ((synthesise_unrepresentable_iff s.cfg.clkHz hfreq).2 heven)
  · rw [exec_of_halted i hhalt, refusedWith_of_latched 0xA#4 hcode]; rfl

/-! ### Precision -/

theorem synthesise_error {clk freq : Hz} {st : Status} (h : synthesise clk freq = .error st) :
    st = .zeroFrequency ∨ st = .unrepresentable := by
  by_cases hfreq : freq = 0#32
  · subst hfreq
    cases (synthesise_zero clk).symm.trans h
    exact .inl rfl
  · rcases synthesise_cases clk hfreq with ⟨herr, -⟩ | ⟨psc, arr, hok, -⟩
    · cases herr.symm.trans h
      exact .inr rfl
    · cases hok.symm.trans h

/-- A command with a channel gives the answer of its result. -/
theorem responses_command {i : Instr} {ch : Channel} (hi : commandChannel i = some ch) (s : State) :
    responses (perform (planOf i s) s) = (resultOf i s).answer :: responses s :=
  (IgnoresCounter.congr (f := responses) (fun _ => rfl) (command_result hi s)).trans
    (CommandResult.responses_apply _ ch s)

/-- Every command is refused, faults in INIT, or is answered `OK` (R240). -/
theorem exec_cases {i : Instr} {s t : State} (h : exec i s = .next t) :
    (∃ st, t = refuse st s) ∨
    (∃ st, (st = .zeroFrequency ∨ st = .unrepresentable) ∧
      t = constructionFault st { clockedAndReset s with schedule := s.schedule.drop 3 }) ∨
    ∃ w, responses t = w :: responses s ∧ w.extractLsb' 16 4 = 0x0#4 := by
  cases hp : planOf i s with
  | error st => exact .inl ⟨st, by rw [← exec_eq_next_iff.1 h, hp, perform]⟩
  | ok ops =>
    cases hi : commandChannel i with
    | some ch =>
      obtain rfl := exec_eq_next_iff.1 h
      refine .inr (.inr ⟨_, responses_command hi s, ?_⟩)
      rw [resultOf_of_ok hp]
      exact channelAnswer_status i s
    | none =>
      cases planOf_ok hp with
      | initFault hhalt hinit hsyn =>
        cases (exec_init_of_error hhalt hinit hsyn).symm.trans h
        exact .inr (.inl ⟨_, synthesise_error hsyn, rfl⟩)
      | initDone hhalt hinit hsyn =>
        cases (exec_init_of_ok hhalt hinit hsyn).symm.trans h
        exact .inr (.inr ⟨0x00000#20, by simp [responses, startedTimer, clockedAndReset], rfl⟩)
      | _ => cases hi

/-- Settles O15: of the three outcomes a refusal keeps all but `FCODE`, a fault has code 1 or 2, and the third is
answered `OK`. -/
theorem nonOkCommandsArePrecise : Obligations.NonOkCommandsArePrecise := by
  intro i s t w h hw hne
  rcases exec_cases h with ⟨st, rfl⟩ | ⟨st, hst, rfl⟩ | ⟨w', hw', hok⟩
  · obtain rfl : responseWord st 0#16 = w := (List.cons.inj hw).1
    refine ⟨rfl, rfl, rfl, .inr ?_⟩
    rw [responseWord_status]; rfl
  · obtain rfl : responseWord st 0#16 = w := (List.cons.inj hw).1
    refine ⟨rfl, rfl, rfl, .inl ?_⟩
    rw [responseWord_status]
    exact hst.imp (congrArg Status.code) (congrArg Status.code)
  · rw [(List.cons.inj (hw'.symm.trans hw)).1] at hok
    exact absurd hok hne

end Sys2Proof.Machine
end

section
/-! PROOFS. Reset (spec/70_reset_and_hazards.md): the state a hardware reset leaves (R35, R280), and that no TICK,
micro-step or refusal clears the record of the block's lifecycle, so no other step does. -/

namespace Sys2Proof.Machine

/-! ### The record of the lifecycle -/

/-- The record of the block's lifecycle: what a hardware reset, and nothing else, clears (R280). -/
def lifecycleRecord (s : State) : Bool × StatusCode × Bool × Bool × ByChannel ChState :=
  (s.halt, s.fcode, s.initialized, s.clken, s.chstate)

/-- What the record of `s` says, that of `t` still says (R280). -/
structure NotCleared (s t : State) : Prop where
  halt : s.halt = true → t.halt = true
  fcode : s.fcode ≠ 0#4 → t.fcode = s.fcode
  initialized : s.initialized = true → t.initialized = true
  clken : s.clken = true → t.clken = true
  assigned : ∀ ch p, s.chstate.get ch = .assigned p → t.chstate.get ch = .assigned p

theorem NotCleared.of_record_eq {s t : State} (h : lifecycleRecord t = lifecycleRecord s) : NotCleared s t := by
  simp only [lifecycleRecord, Prod.mk.injEq] at h
  obtain ⟨hhalt, hfcode, hinit, hclken, hchstate⟩ := h
  exact ⟨hhalt.trans, fun _ => hfcode, hinit.trans, hclken.trans, fun ch p hp => hchstate ▸ hp⟩

theorem NotCleared.trans {s t u : State} (h : NotCleared s t) (h' : NotCleared t u) : NotCleared s u where
  halt hs := h'.halt (h.halt hs)
  fcode hs := (h'.fcode (h.fcode hs ▸ hs)).trans (h.fcode hs)
  initialized hs := h'.initialized (h.initialized hs)
  clken hs := h'.clken (h.clken hs)
  assigned ch p hs := h'.assigned ch p (h.assigned ch p hs)

@[simp] theorem lifecycleRecord_tick (s : State) : lifecycleRecord (tick s) = lifecycleRecord s := by
  simp [lifecycleRecord]

theorem lifecycleRecord_writeReg (r : Reg) (v : Word) (s : State) :
    lifecycleRecord (writeReg r v s) = lifecycleRecord s := by
  cases r <;> rfl

/-! ### Refusals, faults and commands -/

/-- A refusal writes `FCODE` only if it was 0 (R243). -/
theorem notCleared_refuse (st : Status) (s : State) : NotCleared s (refuse st s) :=
  ⟨id, latchCode_of_ne_zero st, id, id, fun _ _ => id⟩

/-- A construction fault sets `HALT`, and writes `FCODE` only if it was 0 (R242). -/
theorem notCleared_constructionFault (st : Status) (s : State) : NotCleared s (constructionFault st s) :=
  ⟨fun _ => rfl, latchCode_of_ne_zero st, id, id, fun _ _ => id⟩

/-- `CHSTATE[ch] <- Assigned(pin)`, of a channel that carried no pin in `s` (R30). -/
theorem NotCleared.setAssigned {s u : State} (h : NotCleared s u) {ch : Channel}
    (hfree : s.chstate.get ch = .unassigned) (pin : PinId) :
    NotCleared s { u with chstate := u.chstate.set ch (.assigned pin) } :=
  { h with
    assigned := fun c p hp => by
      have hc : c ≠ ch := by
        rintro rfl
        cases hfree.symm.trans hp
      exact (ByChannel.get_set_other u.chstate _ hc).trans (h.assigned c p hp) }

/-- A micro-step of a command that began in `s` clears nothing, if it assigns only channels that carried no pin in
`s`. -/
theorem NotCleared.run {s u : State} (h : NotCleared s u) {op : MicroOp}
    (hfree : ∀ ch pin, op = .setAssigned ch pin → s.chstate.get ch = .unassigned) (w : Word) :
    NotCleared s (op.run w u).2 := by
  cases op with
  | modify r clear set => exact h.trans (.of_record_eq (lifecycleRecord_writeReg r _ u))
  | store r v => exact h.trans (.of_record_eq (lifecycleRecord_writeReg r v u))
  | clkEnable => exact { h with clken := fun _ => rfl }
  | setInitialized => exact { h with initialized := fun _ => rfl }
  | setAssigned ch pin => exact h.setAssigned (hfree ch pin rfl) pin
  | raise st => exact h.trans (notCleared_constructionFault st u)
  | csEnter | csExit | load | peripheralReset | afSelect | reply | replyData => exact h.trans (.of_record_eq rfl)

/-- Only ASSIGN assigns, and only a channel that carries no pin (R190, R192). -/
theorem OkPlan.unassigned_of_setAssigned_mem {s : State} {i : Instr} {ops : List MicroOp} (h : OkPlan s i ops)
    {ch : Channel} {pin : PinId} (hmem : .setAssigned ch pin ∈ ops) : s.chstate.get ch = .unassigned := by
  cases h with
  | assign _ _ hfree _ _ =>
    obtain ⟨rfl, -⟩ : _ ∧ pin = _ := by simpa using hmem
    exact hfree
  | _ => simp [enableOps, disableOps, getDutyOps, setDutyOps, getMaxDutyOps] at hmem

theorem notCleared_command (i : Instr) (s : State) : NotCleared s (perform (planOf i s) s) := by
  cases hp : planOf i s with
  | error st => exact notCleared_refuse st s
  | ok ops =>
    have hall := microInstants_all (P := NotCleared s)
      (fun u hu => hu.trans (.of_record_eq (lifecycleRecord_tick u))) (fun _ _ hu => { hu with }) ops
      (fun op hop w u hu => hu.run (fun _ _ e => (planOf_ok hp).unassigned_of_setAssigned_mem (e ▸ hop)) w)
      0#32 s (.of_record_eq rfl)
    exact hall _ (List.mem_of_getLast? (microInstants_last ops 0#32 s))

/-! ### Steps -/

theorem step_of_hardwareReset {s : State} {rest : List Input} (hin : s.inputs = .hardwareReset :: rest) :
    step s = .next (hardwareReset { s with inputs := rest }) := by
  simp only [step, stepOnce, hin, accept]

/-- Every step but a hardware reset, by the input it takes (R280). -/
theorem notCleared_step {s t : State} (hreset : ∀ rest, s.inputs ≠ .hardwareReset :: rest)
    (hstep : step s = .next t) : NotCleared s t := by
  have taken : ∀ rest, NotCleared s { s with inputs := rest } := fun _ => .of_record_eq rfl
  rcases step_cases hstep with ⟨-, rfl⟩ | ⟨rest, ⟨-, rfl⟩ | ⟨hin, -⟩ | ⟨b, -, rfl⟩ | ⟨cw, i, -, -, rfl⟩ |
    ⟨cw, why, -, -, rfl⟩⟩
  · exact .of_record_eq (lifecycleRecord_tick s)
  · exact .of_record_eq (lifecycleRecord_tick { s with inputs := rest })
  · exact absurd hin (hreset rest)
  · exact .of_record_eq rfl
  · exact (taken rest).trans (notCleared_command i _)
  · rw [illegalCommand_eq_refuse]
    exact (taken rest).trans (notCleared_refuse _ _)

/-- Settles O10: the reset writes its column of R35 field by field, and no other input clears the record. -/
theorem hardwareResetRestoresAndAloneClears : Obligations.HardwareResetRestoresAndAloneClears := by
  refine ⟨fun s rest hin => step_of_hardwareReset hin, fun s t hreset hstep => ?_⟩
  obtain ⟨hhalt, hfcode, hinit, hclken, hassigned⟩ := notCleared_step hreset hstep
  exact ⟨hhalt, hfcode, hinit, hclken, hassigned⟩

end Sys2Proof.Machine
end
